-- ==== Sys2Proof/Word.lean ====
section
/-! DEFINITION. The word types of the core: registers, offsets, samples, frames and stimulus words (00 R6, R8; 20 R70; 30 R125). -/

namespace Sys2Proof

/-- A 32-bit register (00 R8). -/
abbrev Reg32 := BitVec 32

/-- A 12-bit byte offset into the register space (20 R70). -/
abbrev Offset := BitVec 12

/-- A signed sample of `SAMPLE_W` = 16 bits (00 R6, 20 R72). -/
abbrev Sample := BitVec 16

/-- The 80 bits of an LTC frame, bit `i` of the value being frame bit `i` (00 R7, R8). -/
abbrev FrameBits := BitVec 80

/-- A stimulus word `F-STIM` (30 R125). -/
abbrev Stim := BitVec 48

end Sys2Proof
end

