-- ==== Sys2Proof/Syntax.lean ====
section
/-! DEFINITION. The instructions: one constructor of `Instr` for each row of spec/opcode_table.json, and the data they carry. -/

namespace Sys2Proof

/-- The three `FrameError`s (30 R136). -/
inductive FrameError where
  /-- Code 1: the trailing 16 bits are not `SYNC`. -/
  | badSyncWord
  /-- Code 2: a digit or time value out of range. -/
  | invalidBCD
  /-- Code 3: the frames value is not below `FN`. -/
  | frameRateMismatch
  deriving DecidableEq, Repr

/-- The decoded content of one frame, an `LTCFrame` (00 R12, 41 R146). -/
structure LtcFrame where
  hh : BitVec 8
  mm : BitVec 8
  ss : BitVec 8
  ff : BitVec 8
  dfl : Bool
  cfl : Bool
  ub0 : BitVec 4
  ub1 : BitVec 4
  ub2 : BitVec 4
  ub3 : BitVec 4
  deriving DecidableEq, Repr

/-- The fields of `F-LTC` below the sync word, one for each line of the table of 30 R101. -/
structure LtcWord where
  fu : BitVec 4
  ug1 : BitVec 4
  ft : BitVec 2
  dfl : Bool
  cfl : Bool
  ug2 : BitVec 4
  su : BitVec 4
  ug3 : BitVec 4
  st : BitVec 3
  x27 : Bool
  ug4 : BitVec 4
  mu : BitVec 4
  ug5 : BitVec 4
  mt : BitVec 3
  x43 : Bool
  ug6 : BitVec 4
  hu : BitVec 4
  ug7 : BitVec 4
  ht : BitVec 2
  x58 : Bool
  x59 : Bool
  ug8 : BitVec 4
  deriving DecidableEq, Repr

/-- A word of one of the three encoded formats (30 R100). The widths stand in the type; the core has no
byte order (20 R78), so words are not cut into bytes (log entry 5). -/
inductive CodeWord where
  /-- `F-STIM`, an interface event (30 R125). -/
  | stim (w : Stim)
  /-- `F-CMD`, the value written to `CMD` (30 R120). -/
  | cmd (w : Reg32)
  /-- `F-LTC`, the frame on the line (30 R101). -/
  | ltc (b : FrameBits)
  deriving DecidableEq, Repr

/-- The rows of the opcode table. Bits that a row ignores are no operand (30 R120, R125). -/
inductive Instr where
  -- F-CMD: the commands written to `CMD` (30 R120)
  | nop
  | enc
  | dec
  | syncchk
  | lbl2cnt
  | cnt2lbl
  | inclbl
  | tofrm
  | topos
  | clrerr
  | sreset
  -- F-CMD: the reserved opcodes, with the opcode bits the row leaves free
  | reservedCmd0B
  | reservedCmd0C (lo : BitVec 2)
  | reservedCmd10 (lo : BitVec 4)
  | reservedCmd20 (lo : BitVec 5)
  | reservedCmd40 (lo : BitVec 6)
  | reservedCmd80 (lo : BitVec 7)
  -- F-STIM: the interface events (30 R125)
  | rst
  | regWr (addr : Offset) (data : Reg32)
  | regRd (addr : Offset)
  | smpIn (s : Sample)
  | smpOut
  | posIdx (v : Reg32)
  | posMs (v : Reg32)
  | devErr
  | reservedKind (kind : BitVec 3) (addr : Offset) (data : Reg32)
  -- F-STIM: the two sub-decodes of `REG.WR`
  | regWrCtrl (enOut enIn : Bool)
  | regWrCmd (opcode : BitVec 8)
  -- INT: internal operations, fired inside a step and without an encoding
  | modCell
  | emitNext
  | emitStop
  | startEmit
  | startRecv
  | stopRecv
  | rxTickgen
  | demodEdge (s : Sample)
  | demodCls (d : Reg32)
  | fbdShift (b : Bool)
  | rxDec
  | seFrame (f : LtcFrame)
  | seEval (c : BitVec 22)
  | seFerr (e : FrameError)
  | seTick
  -- F-LTC
  | ltcFrame (w : LtcWord)
  deriving DecidableEq, Repr

end Sys2Proof
end

