-- ==== Sys2Proof/WellFormed.lean ====
section
/-! DEFINITION. Which instructions are well formed: the canonical row for a `REG.WR` word, and the operand ranges of the internal operations. -/

namespace Sys2Proof

/-- The time ranges of an `LTCFrame` (41 R143), with the widest frames range, `FN` = 30. -/
def LtcFrame.wf (f : LtcFrame) : Bool :=
  decide (f.hh.toNat ≤ 23) && decide (f.mm.toNat ≤ 59) && decide (f.ss.toNat ≤ 59) &&
    decide (f.ff.toNat < 30)

/-- The checks on an instruction. A `REG.WR` to offset 0x000 or 0x03C is written as its own row
(`REG.WR CTRL`, `REG.WR CMD`); the frame handed to `SE.FRAME` has time values in range (41 R146); the count
handed to `SE.EVAL` is below the largest `DAY` (44 R233). Every other operand has its range in its type. -/
def Instr.wf : Instr → Bool
  | .regWr addr _ => decide (addr ≠ 0x000#12) && decide (addr ≠ 0x03C#12)
  | .seFrame f => f.wf
  | .seEval c => decide (c.toNat < 2592000)
  | .nop | .enc | .dec | .syncchk | .lbl2cnt | .cnt2lbl | .inclbl | .tofrm | .topos | .clrerr | .sreset
  | .reservedCmd0B | .reservedCmd0C _ | .reservedCmd10 _ | .reservedCmd20 _ | .reservedCmd40 _
  | .reservedCmd80 _ | .rst | .regRd _ | .smpIn _ | .smpOut | .posIdx _ | .posMs _ | .devErr
  | .reservedKind _ _ _ | .regWrCtrl _ _ | .regWrCmd _ | .modCell | .emitNext | .emitStop | .startEmit
  | .startRecv | .stopRecv | .rxTickgen | .demodEdge _ | .demodCls _ | .fbdShift _ | .rxDec | .seFerr _
  | .seTick | .ltcFrame _ => true

end Sys2Proof
end

