-- ==== Sys2Proof/Decode.lean ====
section
/-! DEFINITION. The decoders of the three encoded formats, total on every word, and after them the encoders written from the same tables (30 R101, R120, R125). -/

namespace Sys2Proof

/-! ## Bit fields -/

/-- The field value `v` placed with its least significant bit at bit `p` of a word of `w` bits (30 R102). -/
def bitsAt (w p : Nat) {n : Nat} (v : BitVec n) : BitVec w := v.setWidth w <<< p

/-- A one-bit field at bit `p`. -/
def bitAt (w p : Nat) (b : Bool) : BitVec w := bitsAt w p (BitVec.ofBool b)

/-! ## The LTC frame, `F-LTC` -/

/-- `SYNC`, frame bit 64 least significant (30 R104). -/
def syncWord : BitVec 16 := 0xBFFC#16

/-- The 80 bits of a frame: the table of 30 R101, each field at its first frame bit. -/
def ltcBits (w : LtcWord) : FrameBits :=
  bitsAt 80 0 w.fu ||| bitsAt 80 4 w.ug1 ||| bitsAt 80 8 w.ft ||| bitAt 80 10 w.dfl ||| bitAt 80 11 w.cfl |||
  bitsAt 80 12 w.ug2 ||| bitsAt 80 16 w.su ||| bitsAt 80 20 w.ug3 ||| bitsAt 80 24 w.st ||| bitAt 80 27 w.x27 |||
  bitsAt 80 28 w.ug4 ||| bitsAt 80 32 w.mu ||| bitsAt 80 36 w.ug5 ||| bitsAt 80 40 w.mt ||| bitAt 80 43 w.x43 |||
  bitsAt 80 44 w.ug6 ||| bitsAt 80 48 w.hu ||| bitsAt 80 52 w.ug7 ||| bitsAt 80 56 w.ht ||| bitAt 80 58 w.x58 |||
  bitAt 80 59 w.x59 ||| bitsAt 80 60 w.ug8 ||| bitsAt 80 64 syncWord

/-- The fields of a frame, each the slice of 30 R101, R102. -/
def ltcFields (b : FrameBits) : LtcWord where
  fu := b.extractLsb' 0 4
  ug1 := b.extractLsb' 4 4
  ft := b.extractLsb' 8 2
  dfl := b.getLsbD 10
  cfl := b.getLsbD 11
  ug2 := b.extractLsb' 12 4
  su := b.extractLsb' 16 4
  ug3 := b.extractLsb' 20 4
  st := b.extractLsb' 24 3
  x27 := b.getLsbD 27
  ug4 := b.extractLsb' 28 4
  mu := b.extractLsb' 32 4
  ug5 := b.extractLsb' 36 4
  mt := b.extractLsb' 40 3
  x43 := b.getLsbD 43
  ug6 := b.extractLsb' 44 4
  hu := b.extractLsb' 48 4
  ug7 := b.extractLsb' 52 4
  ht := b.extractLsb' 56 2
  x58 := b.getLsbD 58
  x59 := b.getLsbD 59
  ug8 := b.extractLsb' 60 4

/-- `syncok`, the sync-word validator (41 R140). -/
def syncok (b : FrameBits) : Bool := b.extractLsb' 64 16 == syncWord

/-! ## Commands, `F-CMD` -/

/-- The opcode map (30 R120), the reserved opcodes by the rows of the table. -/
def decodeOpcode (op : BitVec 8) : Instr :=
  match op.toNat with
  | 0x00 => .nop
  | 0x01 => .enc
  | 0x02 => .dec
  | 0x03 => .syncchk
  | 0x04 => .lbl2cnt
  | 0x05 => .cnt2lbl
  | 0x06 => .inclbl
  | 0x07 => .tofrm
  | 0x08 => .topos
  | 0x09 => .clrerr
  | 0x0A => .sreset
  | 0x0B => .reservedCmd0B
  | n =>
    if n < 0x10 then .reservedCmd0C (op.setWidth 2)
    else if n < 0x20 then .reservedCmd10 (op.setWidth 4)
    else if n < 0x40 then .reservedCmd20 (op.setWidth 5)
    else if n < 0x80 then .reservedCmd40 (op.setWidth 6)
    else .reservedCmd80 (op.setWidth 7)

/-- The command in a value written to `CMD`: `opcode` = bits 7 to 0, the rest ignored (10 R39, 30 R120). -/
def decodeCmd (w : Reg32) : Instr := decodeOpcode (w.setWidth 8)

/-! ## Stimulus words, `F-STIM` -/

/-- The event in a stimulus word (30 R125), with the table's sub-decodes of `REG.WR`. Fields an event does
not use are ignored; the sample of `SMP.IN` is the low `SAMPLE_W` bits of `data` (log entry 6). -/
def decodeStim (w : Stim) : Instr :=
  let addr : Offset := w.extractLsb' 32 12
  let data : Reg32 := w.extractLsb' 0 32
  match (w.extractLsb' 44 4).toNat with
  | 0x0 => .rst
  | 0x1 =>
    if addr = 0x000#12 then .regWrCtrl (data.getLsbD 0) (data.getLsbD 1)
    else if addr = 0x03C#12 then .regWrCmd (data.setWidth 8)
    else .regWr addr data
  | 0x2 => .regRd addr
  | 0x3 => .smpIn (data.setWidth 16)
  | 0x4 => .smpOut
  | 0x5 => .posIdx data
  | 0x6 => .posMs data
  | 0x7 => .devErr
  | _ => .reservedKind (w.extractLsb' 44 3) addr data

/-! ## All formats -/

/-- Why a word is no instruction. -/
inductive DecodeReject where
  /-- A frame word whose bits 79 to 64 are not `SYNC` matches no row of the table (30 R109, 41 R140). -/
  | badSyncWord
  deriving DecidableEq, Repr

/-- The decoder: every word of every format gives an instruction or is rejected by name. -/
def decode : CodeWord → Except DecodeReject Instr
  | .stim w => .ok (decodeStim w)
  | .cmd w => .ok (decodeCmd w)
  | .ltc b => if syncok b then .ok (.ltcFrame (ltcFields b)) else .error .badSyncWord

/-- The instruction the decoder reads from a table row's bits. The table has rows of at most 32 bits
(`F-CMD`), of 48 bits (`F-STIM`) and of 80 bits (`F-LTC`); bits above `nbits` are 0. -/
def decodeTableWord (nbits w : Nat) : Option Instr :=
  if nbits ≤ 32 then (decode (.cmd (BitVec.ofNat 32 w))).toOption
  else if nbits ≤ 48 then (decode (.stim (BitVec.ofNat 48 w))).toOption
  else if nbits ≤ 80 then (decode (.ltc (BitVec.ofNat 80 w))).toOption
  else none

/-! ## Encoders -/

/-- A stimulus word from its three fields (30 R125). -/
def stimWord (kind : BitVec 4) (addr : Offset) (data : Reg32) : Stim :=
  bitsAt 48 44 kind ||| bitsAt 48 32 addr ||| bitsAt 48 0 data

/-- The `F-CMD` word of an opcode, ignored bits 0 (30 R120). -/
def cmdWord (op : BitVec 8) : Reg32 := op.setWidth 32

/-- The stimulus word of `REG.WR CMD, w` (30 R125: `ENC` is `0x103C00000001`). -/
def cmdStim (w : Reg32) : Stim := stimWord 0x1#4 0x03C#12 w

/-- The word of an instruction, fields it does not use written 0 (30 R120, R125); `none` for an internal
operation, which has no encoding. -/
def encode : Instr → Option CodeWord
  | .nop => some (.cmd (cmdWord 0x00#8))
  | .enc => some (.cmd (cmdWord 0x01#8))
  | .dec => some (.cmd (cmdWord 0x02#8))
  | .syncchk => some (.cmd (cmdWord 0x03#8))
  | .lbl2cnt => some (.cmd (cmdWord 0x04#8))
  | .cnt2lbl => some (.cmd (cmdWord 0x05#8))
  | .inclbl => some (.cmd (cmdWord 0x06#8))
  | .tofrm => some (.cmd (cmdWord 0x07#8))
  | .topos => some (.cmd (cmdWord 0x08#8))
  | .clrerr => some (.cmd (cmdWord 0x09#8))
  | .sreset => some (.cmd (cmdWord 0x0A#8))
  | .reservedCmd0B => some (.cmd (cmdWord 0x0B#8))
  | .reservedCmd0C lo => some (.cmd (cmdWord (0x0C#8 ||| lo.setWidth 8)))
  | .reservedCmd10 lo => some (.cmd (cmdWord (0x10#8 ||| lo.setWidth 8)))
  | .reservedCmd20 lo => some (.cmd (cmdWord (0x20#8 ||| lo.setWidth 8)))
  | .reservedCmd40 lo => some (.cmd (cmdWord (0x40#8 ||| lo.setWidth 8)))
  | .reservedCmd80 lo => some (.cmd (cmdWord (0x80#8 ||| lo.setWidth 8)))
  | .rst => some (.stim (stimWord 0x0#4 0 0))
  | .regWr addr data => some (.stim (stimWord 0x1#4 addr data))
  | .regRd addr => some (.stim (stimWord 0x2#4 addr 0))
  | .smpIn s => some (.stim (stimWord 0x3#4 0 (s.signExtend 32)))
  | .smpOut => some (.stim (stimWord 0x4#4 0 0))
  | .posIdx v => some (.stim (stimWord 0x5#4 0 v))
  | .posMs v => some (.stim (stimWord 0x6#4 0 v))
  | .devErr => some (.stim (stimWord 0x7#4 0 0))
  | .reservedKind kind addr data => some (.stim (stimWord (0x8#4 ||| kind.setWidth 4) addr data))
  | .regWrCtrl enOut enIn => some (.stim (stimWord 0x1#4 0x000#12 (bitAt 32 0 enOut ||| bitAt 32 1 enIn)))
  | .regWrCmd op => some (.stim (cmdStim (cmdWord op)))
  | .modCell | .emitNext | .emitStop | .startEmit | .startRecv | .stopRecv | .rxTickgen | .demodEdge _
  | .demodCls _ | .fbdShift _ | .rxDec | .seFrame _ | .seEval _ | .seFerr _ | .seTick => none
  | .ltcFrame w => some (.ltc (ltcBits w))

end Sys2Proof
end

