-- ==== Sys2Proof/Machine/State.lean ====
section
/-! DEFINITION. The state of the core as plain data, grouped by unit (10 R20), its named updates, and its value after reset (10 R59). -/

namespace Sys2Proof.Machine

/-- The four lock states (10 R25). -/
inductive Lock where
  | unlocked
  | acquiring
  | locked
  | lost
  deriving DecidableEq, Repr

/-- `CTRL` (10 R30) and the run flags (10 R56). -/
structure RunState where
  ctrl : Reg32
  runEmit : Bool
  runRecv : Bool
  deriving DecidableEq, Repr

/-- The configuration registers, locked while a path runs (10 R31 to R38, R47). -/
structure ConfigRegs where
  cfg : Reg32
  srate : Reg32
  smallthr : Reg32
  largethr : Reg32
  failthr : Reg32
  exthr : Reg32
  emittol : Reg32
  ubits : Reg32
  deriving DecidableEq, Repr

/-- The operand registers (10 R21). -/
structure Operands where
  fldTime : Reg32
  fldFlags : Reg32
  fb0 : Reg32
  fb1 : Reg32
  fb2 : Reg32
  posidx : Reg32
  posms : Reg32
  cntop : Reg32
  deriving DecidableEq, Repr

/-- The sticky errors (10 R56) and the code of the last `FrameError` (10 R25). -/
structure Errors where
  cfgerr : Bool
  deverr : Bool
  lastferr : BitVec 2
  deriving DecidableEq, Repr

/-- The statistics of the receive path (10 R41 to R44). -/
structure Stats where
  okcnt : Reg32
  ferrcnt : Reg32
  rxtime : Reg32
  rxflags : Reg32
  deriving DecidableEq, Repr

/-- The modulator (10 R50). -/
structure Modulator where
  mlvl : Bool
  mbits : FrameBits
  mbit : BitVec 7
  mpos : Reg32
  mlen : Reg32
  macc : BitVec 18
  mact : Bool
  deriving DecidableEq, Repr

/-- The demodulator (10 R51); `ehi` and `elo` are signed. -/
structure Demodulator where
  ehi : Sample
  elo : Sample
  dlvl : Bool
  tmr : Reg32
  tmrv : Bool
  half : Bool
  deriving DecidableEq, Repr

/-- The frame-boundary detector (10 R52). -/
structure Fbd where
  rxsr : FrameBits
  rxcnt : BitVec 7
  deriving DecidableEq, Repr

/-- The timebase (10 R53). -/
structure Timebase where
  cnt : BitVec 22
  tbvalid : Bool
  rxtacc : BitVec 40
  deriving DecidableEq, Repr

/-- The sync engine (10 R54). -/
structure SyncEngine where
  lock : Lock
  prevcnt : BitVec 22
  prevv : Bool
  gap : Reg32
  deriving DecidableEq, Repr

/-- The position input latches (10 R55). -/
structure PosLatch where
  idx : Reg32
  ms : Reg32
  deriving DecidableEq, Repr

/-- The kinds of a correction (20 R76, 30 R135). -/
inductive CorrKind where
  /-- Code 0. -/
  | smooth
  /-- Code 1. -/
  | jam
  deriving DecidableEq, Repr

/-- A record of an output stream (20 R76, R77; 30 R135). -/
inductive Record where
  | corr (kind : CorrKind) (idx ms : Reg32)
  | notify (first : Bool)
  deriving DecidableEq, Repr

/-- The value an event hands back to its issuer (00 R10): `REG.RD` a register value, `SMP.OUT` a sample. -/
inductive Returned where
  | reg (v : Reg32)
  | sample (v : Sample)
  deriving DecidableEq, Repr

/-- The whole state (10 R20). The last three fields are the model's own: the events still to arrive (log
entry 1), the value the last event returned and the records appended so far, oldest first (log entry 2). -/
structure State where
  run : RunState
  creg : ConfigRegs
  ops : Operands
  result : Reg32
  err : Errors
  stat : Stats
  mod : Modulator
  dem : Demodulator
  fbd : Fbd
  tb : Timebase
  se : SyncEngine
  pos : PosLatch
  events : List Stim
  ret : Option Returned
  records : List Record
  deriving DecidableEq, Repr

/-- The core has no fault: no input sequence that begins with `RST` leaves it without a defined next state
(60 R360, R368). Nothing raises one, so the type has no constructor. Safe. -/
inductive Fault where
  deriving DecidableEq, Repr

/-- Why an instruction has no meaning. -/
inductive Refusal where
  /-- Raised by an arm of `exec` whose instruction has no meaning yet; no arm raises it now. Safe. -/
  | notModelled (mnemonic : String)
  /-- Raised by a stimulus word of kind 0x8 to 0xF, which is no event and which a replayer refuses (30 R125,
  93 U16; log entry 11). Safe: the hardware has no behaviour here to be missed. -/
  | reservedKind (kind : BitVec 4)
  deriving DecidableEq, Repr

/-! ## Named updates, one for each group -/

namespace State

def putRun (s : State) (v : RunState) : State := { s with run := v }
def putCreg (s : State) (v : ConfigRegs) : State := { s with creg := v }
def putOps (s : State) (v : Operands) : State := { s with ops := v }
def putResult (s : State) (v : Reg32) : State := { s with result := v }
def putErr (s : State) (v : Errors) : State := { s with err := v }
def putStat (s : State) (v : Stats) : State := { s with stat := v }
def putMod (s : State) (v : Modulator) : State := { s with mod := v }
def putDem (s : State) (v : Demodulator) : State := { s with dem := v }
def putFbd (s : State) (v : Fbd) : State := { s with fbd := v }
def putTb (s : State) (v : Timebase) : State := { s with tb := v }
def putSe (s : State) (v : SyncEngine) : State := { s with se := v }
def putPos (s : State) (v : PosLatch) : State := { s with pos := v }
def putEvents (s : State) (v : List Stim) : State := { s with events := v }
def putRet (s : State) (v : Option Returned) : State := { s with ret := v }
def putRecords (s : State) (v : List Record) : State := { s with records := v }

end State

/-! ## Reset values (10 R59) -/

/-- 10 R50. -/
def Modulator.reset : Modulator := ⟨false, 0, 0, 0, 0, 0, false⟩

/-- 10 R51. -/
def Demodulator.reset : Demodulator := ⟨0, 0, false, 0, false, false⟩

/-- 10 R52. -/
def Fbd.reset : Fbd := ⟨0, 0⟩

/-- 10 R53. -/
def Timebase.reset : Timebase := ⟨0, false, 0⟩

/-- 10 R54. -/
def SyncEngine.reset : SyncEngine := ⟨.unlocked, 0, false, 0⟩

/-- The machine right after reset: all zero except the five thresholds of 10 R59; no event waits, nothing has
been returned and no record has been appended. -/
def State.reset : State where
  run := ⟨0, false, false⟩
  creg :=
    { cfg := 0, srate := 0, smallthr := 1, largethr := 1000, failthr := 2000, exthr := 0xFFFFFFFF#32,
      emittol := 1, ubits := 0 }
  ops := ⟨0, 0, 0, 0, 0, 0, 0, 0⟩
  result := 0
  err := ⟨false, false, 0⟩
  stat := ⟨0, 0, 0, 0⟩
  mod := .reset
  dem := .reset
  fbd := .reset
  tb := .reset
  se := .reset
  pos := ⟨0, 0⟩
  events := []
  ret := none
  records := []

end Sys2Proof.Machine
end

