-- ==== Sys2Proof/Machine/Rate.lean ====
section
/-! DEFINITION. The configuration functions of `CFG.RATE` (00 R11, 44 R233). -/

namespace Sys2Proof.Machine

/-- The four timecode rates (00 R11). -/
inductive Rate where
  | fps24
  | fps25
  | fps2997
  | fps30
  deriving DecidableEq, Repr

/-- The rate of a code of `CFG.RATE` (10 R31). -/
def rateOfCode (r : BitVec 2) : Rate :=
  match r.toNat with
  | 0 => .fps24
  | 1 => .fps25
  | 2 => .fps2997
  | _ => .fps30

/-- `NUM` (00 R11). -/
def rateNum : Rate → Nat
  | .fps24 => 24
  | .fps25 => 25
  | .fps2997 => 2997
  | .fps30 => 30

/-- `DEN` (00 R11). -/
def rateDen : Rate → Nat
  | .fps24 => 1
  | .fps25 => 1
  | .fps2997 => 100
  | .fps30 => 1

/-- `FN`, the nominal frames per second (00 R11). -/
def rateFn : Rate → Nat
  | .fps24 => 24
  | .fps25 => 25
  | .fps2997 => 30
  | .fps30 => 30

/-- `DF`, drop-frame counting in force (00 R11, 44 R232). -/
def rateDf : Rate → Bool
  | .fps24 => false
  | .fps25 => false
  | .fps2997 => true
  | .fps30 => false

/-- `DAY`, the number of labels in a day (00 R11, 44 R233). -/
def rateDay : Rate → Nat
  | .fps24 => 2073600
  | .fps25 => 2160000
  | .fps2997 => 2589408
  | .fps30 => 2592000

/-- `HOURF`, the number of labels in an hour (00 R11, 44 R233). -/
def rateHour : Rate → Nat
  | .fps24 => 86400
  | .fps25 => 90000
  | .fps2997 => 107892
  | .fps30 => 108000

/-- A threshold in milliseconds as whole frames, floored (00 R11). -/
def msToFrames (r : Rate) (ms : Nat) : Nat := (ms * rateNum r) / (1000 * rateDen r)

end Sys2Proof.Machine
end

