-- ==== Sys2Proof/Machine/Operands.lean ====
section
/-! DEFINITION. The operand forms: the fields of the registers and how they are packed (10 R21, R30, R31, R38), and the arithmetic of 00 R9. -/

namespace Sys2Proof.Machine

/-! ## Arithmetic (00 R9) -/

/-- `sat32`, saturation to 32 bits. -/
def sat32 (n : Nat) : Nat := min n 0xFFFFFFFF

/-- `ceildiv(a, b)`, the least integer not below `a / b`, for `b > 0`. -/
def ceilDiv (a b : Nat) : Nat := (a + b - 1) / b

/-- `|a − b|` of two non-negative integers. -/
def absDiff (a b : Nat) : Nat := (a - b) + (b - a)

/-! ## CTRL (10 R30) -/

/-- `CTRL` from its two bits, the reserved bits 0. -/
def ctrlWord (enOut enIn : Bool) : Reg32 := bitAt 32 0 enOut ||| bitAt 32 1 enIn

/-- `CTRL.EN_OUT`. -/
def State.enOut (s : State) : Bool := s.run.ctrl.getLsbD 0

/-- `CTRL.EN_IN`. -/
def State.enIn (s : State) : Bool := s.run.ctrl.getLsbD 1

/-! ## CFG (10 R31) and the thresholds (00 R11) -/

/-- `CFG.RATE`. -/
def State.rate (s : State) : Rate := rateOfCode (s.creg.cfg.setWidth 2)

/-- `CFG.HIDX`. -/
def State.hidx (s : State) : Bool := s.creg.cfg.getLsbD 2

/-- `CFG.FWD`. -/
def State.fwd (s : State) : Bool := s.creg.cfg.getLsbD 3

/-- `CFG.CF`. -/
def State.cf (s : State) : Bool := s.creg.cfg.getLsbD 4

/-- `LARGE_F`. -/
def State.largeF (s : State) : Nat := msToFrames s.rate s.creg.largethr.toNat

/-- `FAIL_F`. -/
def State.failF (s : State) : Nat := msToFrames s.rate s.creg.failthr.toNat

/-- `EXT_F`. -/
def State.extF (s : State) : Nat := msToFrames s.rate s.creg.exthr.toNat

/-- `EXT_DIS`. -/
def State.extDis (s : State) : Bool := s.creg.exthr == 0xFFFFFFFF#32

/-- `SRATE · DEN`: the `A` of 42 R174, the `Hn` of 43 R194. -/
def State.rateA (s : State) : Nat := s.creg.srate.toNat * rateDen s.rate

/-- `80 · NUM`: the `B` of 42 R174. -/
def State.rateB (s : State) : Nat := 80 * rateNum s.rate

/-! ## Labels and FLD_TIME (10 R21, 44 R231) -/

/-- A label `hh:mm:ss:ff` of plain numbers (44 R231). -/
structure Label where
  hh : Nat
  mm : Nat
  ss : Nat
  ff : Nat
  deriving DecidableEq, Repr

/-- `{hh, mm, ss, ff}`, 8 bits each, `HH` in bits 31 to 24. -/
def packTime (l : Label) : Reg32 :=
  bitsAt 32 24 (BitVec.ofNat 8 l.hh) ||| bitsAt 32 16 (BitVec.ofNat 8 l.mm) |||
    bitsAt 32 8 (BitVec.ofNat 8 l.ss) ||| bitsAt 32 0 (BitVec.ofNat 8 l.ff)

/-- The four fields of `FLD_TIME`. -/
def unpackTime (v : Reg32) : Label where
  hh := (v.extractLsb' 24 8).toNat
  mm := (v.extractLsb' 16 8).toNat
  ss := (v.extractLsb' 8 8).toNat
  ff := (v.extractLsb' 0 8).toNat

/-- `inrange` (41 R143). -/
def inrange (l : Label) (fn : Nat) : Bool :=
  decide (l.hh ≤ 23) && decide (l.mm ≤ 59) && decide (l.ss ≤ 59) && decide (l.ff < fn)

/-- The label of a decoded frame. -/
def frameLabel (f : LtcFrame) : Label := ⟨f.hh.toNat, f.mm.toNat, f.ss.toNat, f.ff.toNat⟩

/-! ## FLD_FLAGS and UBITS (10 R21, R38) -/

/-- The fields of `FLD_FLAGS`. -/
structure FlagFields where
  dfl : Bool
  cfl : Bool
  ub0 : BitVec 4
  ub1 : BitVec 4
  ub2 : BitVec 4
  ub3 : BitVec 4
  deriving DecidableEq, Repr

/-- `{cfl, dfl, ub3, ub2, ub1, ub0}`: `CFL` bit 17, `DFL` bit 16, `UB0` in bits 3 to 0. -/
def packFlags (g : FlagFields) : Reg32 :=
  bitsAt 32 0 g.ub0 ||| bitsAt 32 4 g.ub1 ||| bitsAt 32 8 g.ub2 ||| bitsAt 32 12 g.ub3 |||
    bitAt 32 16 g.dfl ||| bitAt 32 17 g.cfl

/-- The fields of a value laid out as `FLD_FLAGS`. -/
def unpackFlags (v : Reg32) : FlagFields where
  dfl := v.getLsbD 16
  cfl := v.getLsbD 17
  ub0 := v.extractLsb' 0 4
  ub1 := v.extractLsb' 4 4
  ub2 := v.extractLsb' 8 4
  ub3 := v.extractLsb' 12 4

/-- The flag fields of a decoded frame. -/
def frameFlags (f : LtcFrame) : FlagFields := ⟨f.dfl, f.cfl, f.ub0, f.ub1, f.ub2, f.ub3⟩

/-- The flags and user nibbles of the frames the emit path and `TOFRM` build (44 R243, 45 R274): the
drop-frame flag from the rate, the colour-frame flag from `CFG.CF`, the nibbles from `UBITS`. -/
def State.builtFlags (s : State) : FlagFields :=
  { unpackFlags s.creg.ubits with dfl := rateDf s.rate, cfl := s.cf }

/-! ## The frame buffer (10 R21) -/

/-- `FB`, the 80-bit value `{FB2[15:0], FB1, FB0}`. -/
def State.fb (s : State) : FrameBits :=
  bitsAt 80 64 (s.ops.fb2.setWidth 16) ||| bitsAt 80 32 s.ops.fb1 ||| bitsAt 80 0 s.ops.fb0

/-- The operand registers with the frame buffer loaded (41 R147). -/
def Operands.putFb (o : Operands) (b : FrameBits) : Operands :=
  { o with
    fb0 := b.extractLsb' 0 32
    fb1 := b.extractLsb' 32 32
    fb2 := (b.extractLsb' 64 16).setWidth 32 }

end Sys2Proof.Machine
end

