-- ==== Sys2Proof/Machine/Flags.lean ====
section
/-! DEFINITION. The flag computations: the view `STATUS` (10 R25), the outcomes in `RESULT` (10 R26), the error codes (30 R136). -/

namespace Sys2Proof.Machine

/-- The code of a `FrameError` (30 R136). -/
def ferrCode : FrameError → BitVec 2
  | .badSyncWord => 1#2
  | .invalidBCD => 2#2
  | .frameRateMismatch => 3#2

/-- The code of a lock state (10 R25). -/
def lockCode : Lock → BitVec 2
  | .unlocked => 0#2
  | .acquiring => 1#2
  | .locked => 2#2
  | .lost => 3#2

/-- `DRAIN`: the last frame is being completed (10 R25). -/
def State.drain (s : State) : Bool := s.run.runEmit && !s.enOut

/-- The view `STATUS` (10 R25). -/
def State.status (s : State) : Reg32 :=
  bitsAt 32 0 (lockCode s.se.lock) ||| bitAt 32 2 s.run.runEmit ||| bitAt 32 3 s.run.runRecv |||
    bitAt 32 4 s.drain ||| bitAt 32 5 s.tb.tbvalid ||| bitAt 32 6 s.mod.mact |||
    bitAt 32 8 s.err.cfgerr ||| bitAt 32 9 s.err.deverr ||| bitsAt 32 12 s.err.lastferr

/-- `RESULT` with `RANGEERR` alone (10 R26). -/
def resultRange : Reg32 := bitAt 32 4 true

/-- `RESULT` with `CMDERR` alone (10 R26). -/
def resultCmdErr : Reg32 := bitAt 32 5 true

/-- `RESULT` with `SYNCOK` and the code `FERR` (10 R26). -/
def resultSync (ok : Bool) (ferr : BitVec 2) : Reg32 := bitsAt 32 0 ferr ||| bitAt 32 8 ok

end Sys2Proof.Machine
end

