-- ==== Sys2Proof/Machine/Ops.lean ====
section
/-! DEFINITION. The named operations over the state: the register file, the recording of errors, the start and stop of the two paths, reset, and the fetch of the next event. -/

namespace Sys2Proof.Machine

/-! ## The register file (10 R46) -/

/-- The 26 registers. -/
inductive Reg where
  | ctrl | status | cfg | srate | smallthr | largethr | failthr | exthr | emittol | ubits
  | fldTime | fldFlags | fb0 | fb1 | fb2 | cmd | result | posidx | posms | cntop
  | tbcnt | okcnt | ferrcnt | rxtime | rxflags | gapcnt
  deriving DecidableEq, Repr

/-- The register at a byte offset; `none` for an unmapped or misaligned one (10 R46, 20 R71). -/
def regOfOffset (a : Offset) : Option Reg :=
  match a.toNat with
  | 0x00 => some .ctrl
  | 0x04 => some .status
  | 0x08 => some .cfg
  | 0x0C => some .srate
  | 0x10 => some .smallthr
  | 0x14 => some .largethr
  | 0x18 => some .failthr
  | 0x1C => some .exthr
  | 0x20 => some .emittol
  | 0x24 => some .ubits
  | 0x28 => some .fldTime
  | 0x2C => some .fldFlags
  | 0x30 => some .fb0
  | 0x34 => some .fb1
  | 0x38 => some .fb2
  | 0x3C => some .cmd
  | 0x40 => some .result
  | 0x44 => some .posidx
  | 0x48 => some .posms
  | 0x4C => some .cntop
  | 0x50 => some .tbcnt
  | 0x54 => some .okcnt
  | 0x58 => some .ferrcnt
  | 0x5C => some .rxtime
  | 0x60 => some .rxflags
  | 0x64 => some .gapcnt
  | _ => none

/-- The registers locked while a path runs (10 R46, R47). -/
def regLocked : Reg → Bool
  | .cfg | .srate | .smallthr | .largethr | .failthr | .exthr | .emittol | .ubits => true
  | .ctrl | .status | .fldTime | .fldFlags | .fb0 | .fb1 | .fb2 | .cmd | .result | .posidx | .posms | .cntop
  | .tbcnt | .okcnt | .ferrcnt | .rxtime | .rxflags | .gapcnt => false

/-- The bits of a register that hold a value; the others read 0 and ignore writes (10 R21, R30 to R38). -/
def regMask : Reg → Reg32
  | .ctrl => 0x00000003#32
  | .cfg => 0x0000001F#32
  | .ubits => 0x0000FFFF#32
  | .fldFlags => 0x0003FFFF#32
  | .fb2 => 0x0000FFFF#32
  | .srate | .smallthr | .largethr | .failthr | .exthr | .emittol | .fldTime | .fb0 | .fb1 | .posidx | .posms
  | .cntop => 0xFFFFFFFF#32
  | .status | .cmd | .result | .tbcnt | .okcnt | .ferrcnt | .rxtime | .rxflags | .gapcnt => 0#32

/-- A path runs (10 R47). -/
def State.running (s : State) : Bool := s.run.runEmit || s.run.runRecv

/-- The value a read of a register returns (46 R320): stored registers, the views, and 0 for `CMD`. -/
def readReg (s : State) : Reg → Reg32
  | .ctrl => s.run.ctrl
  | .status => s.status
  | .cfg => s.creg.cfg
  | .srate => s.creg.srate
  | .smallthr => s.creg.smallthr
  | .largethr => s.creg.largethr
  | .failthr => s.creg.failthr
  | .exthr => s.creg.exthr
  | .emittol => s.creg.emittol
  | .ubits => s.creg.ubits
  | .fldTime => s.ops.fldTime
  | .fldFlags => s.ops.fldFlags
  | .fb0 => s.ops.fb0
  | .fb1 => s.ops.fb1
  | .fb2 => s.ops.fb2
  | .cmd => 0
  | .result => s.result
  | .posidx => s.ops.posidx
  | .posms => s.ops.posms
  | .cntop => s.ops.cntop
  | .tbcnt => s.tb.cnt.setWidth 32
  | .okcnt => s.stat.okcnt
  | .ferrcnt => s.stat.ferrcnt
  | .rxtime => s.stat.rxtime
  | .rxflags => s.stat.rxflags
  | .gapcnt => s.se.gap

/-- `RegRead(addr)`: the value at an offset, 0 where there is no register (46 R320, 20 R71). -/
def readOffset (s : State) (a : Offset) : Reg32 :=
  match regOfOffset a with
  | some r => readReg s r
  | none => 0

/-- The plain store of 46 R321: `register <- data with the reserved bits forced to 0`. The registers that are
read-only or whose write has effects are not stored here. -/
def storeReg (s : State) (r : Reg) (data : Reg32) : State :=
  let v := data &&& regMask r
  match r with
  | .cfg => s.putCreg { s.creg with cfg := v }
  | .srate => s.putCreg { s.creg with srate := v }
  | .smallthr => s.putCreg { s.creg with smallthr := v }
  | .largethr => s.putCreg { s.creg with largethr := v }
  | .failthr => s.putCreg { s.creg with failthr := v }
  | .exthr => s.putCreg { s.creg with exthr := v }
  | .emittol => s.putCreg { s.creg with emittol := v }
  | .ubits => s.putCreg { s.creg with ubits := v }
  | .fldTime => s.putOps { s.ops with fldTime := v }
  | .fldFlags => s.putOps { s.ops with fldFlags := v }
  | .fb0 => s.putOps { s.ops with fb0 := v }
  | .fb1 => s.putOps { s.ops with fb1 := v }
  | .fb2 => s.putOps { s.ops with fb2 := v }
  | .posidx => s.putOps { s.ops with posidx := v }
  | .posms => s.putOps { s.ops with posms := v }
  | .cntop => s.putOps { s.ops with cntop := v }
  | .ctrl | .status | .cmd | .result | .tbcnt | .okcnt | .ferrcnt | .rxtime | .rxflags | .gapcnt => s

/-! ## Taking an error

What stands for taking an exception is the recording of an error: nothing is saved, no mode changes, control
goes nowhere, and the machine goes on (60 R372). There is no return (60 R373). -/

/-- `CFGERR <- 1` (60 R365, R366). -/
def recordConfigError (s : State) : State := s.putErr { s.err with cfgerr := true }

/-- `DEVERR <- 1` (60 R367). -/
def recordDeviceError (s : State) : State := s.putErr { s.err with deverr := true }

/-- `FERRCNT <- (FERRCNT + 1) mod 2^32 ; LASTFERR <- e` (60 R361, 45 R285). -/
def recordFrameError (s : State) (e : FrameError) : State :=
  (s.putStat { s.stat with ferrcnt := s.stat.ferrcnt + 1 }).putErr { s.err with lastferr := ferrCode e }

/-- `CFGERR <- 0 ; DEVERR <- 0 ; LASTFERR <- 0` (46 R324, 60 R373). -/
def clearErrors (s : State) : State := s.putErr ⟨false, false, 0⟩

/-! ## Output streams (20 R76, R77) -/

/-- `append` of one record. -/
def appendRecord (s : State) (r : Record) : State := s.putRecords (s.records ++ [r])

/-! ## Start and stop of the paths (46 R331 to R335) -/

/-- `cfg_ok`: `SRATE · DEN >= 640 · NUM` (46 R331). -/
def State.cfgOk (s : State) : Bool := decide (640 * rateNum s.rate ≤ s.rateA)

/-- `START.EMIT` (46 R332). -/
def startEmit (s : State) : State :=
  ((s.putRun { s.run with runEmit := true }).putMod .reset).putTb { s.tb with cnt := 0, tbvalid := false }

/-- `EMIT.STOP` (46 R334). -/
def emitStop (s : State) : State :=
  ((s.putRun { s.run with runEmit := false }).putMod .reset).putTb { s.tb with cnt := 0, tbvalid := false }

/-- The receive state that `START.RECV` and `STOP.RECV` both clear (46 R333, R335). -/
def clearRecv (s : State) : State :=
  (((s.putSe .reset).putTb .reset).putDem .reset).putFbd .reset

/-- `START.RECV` (46 R333): the statistics are cleared too. -/
def startRecv (s : State) : State :=
  (clearRecv (s.putRun { s.run with runRecv := true })).putStat ⟨0, 0, 0, 0⟩

/-- `STOP.RECV` (46 R335): the statistics are kept. -/
def stopRecv (s : State) : State := clearRecv (s.putRun { s.run with runRecv := false })

/-! ## Reset (70 R390) -/

/-- `RST`: every state element takes its reset value. The events still to arrive, the value returned and the
records already appended belong to the environment and stay (70 R390; log entry 2). -/
def resetCore (s : State) : State :=
  ((State.reset.putEvents s.events).putRet s.ret).putRecords s.records

/-! ## The next event -/

/-- The next event's word and the state in which it is handled: the event is taken off the list, and nothing
has been returned yet (00 R5, 20 R82; log entries 1 and 2). -/
def fetch (s : State) : Option (Stim × State) :=
  match s.events with
  | [] => none
  | w :: rest => some (w, (s.putEvents rest).putRet none)

/-- `s` with one more event to arrive before all others. -/
def pushEvent (s : State) (w : Stim) : State := s.putEvents (w :: s.events)

/-- `s` with the receive path one edge away from the whole frame `b`: 79 bits are in, and the next event is
the sample of the edge that ends the last cell, so that the very next step hands `b` to `RX.DEC` (43 R195 to
R198; log entry 8). At 48000 samples per second an interval of 10 is short and one of 22 is long at every
rate (43 R194). -/
def pushFrame (s : State) (b : FrameBits) : State :=
  let s := s.putRun ⟨ctrlWord false true, false, true⟩
  let s := s.putCreg { s.creg with srate := 48000#32 }
  let s := s.putTb { s.tb with rxtacc := 0 }
  let s := s.putFbd ⟨b <<< 1, 79⟩
  let last := b.getLsbD 79
  let s := s.putDem ⟨0, 0, false, if last then 9 else 21, true, last⟩
  pushEvent s (stimWord 0x3#4 0 0x4000#32)

end Sys2Proof.Machine
end

