-- ==== Sys2Proof/Machine/Codec.lean ====
section
/-! DEFINITION. The frame codec: `encode`, `decode` and the commands `ENC`, `DEC`, `SYNCCHK` (spec/41_frame_codec.md). -/

namespace Sys2Proof.Machine

/-! ## The functions -/

/-- `encode` (41 R144): digits `v mod 10` and `v div 10` in their fields (30 R103), every field the frame does
not carry 0, the sync word. -/
def encodeFrame (l : Label) (g : FlagFields) : FrameBits :=
  ltcBits
    { fu := BitVec.ofNat 4 (l.ff % 10), ft := BitVec.ofNat 2 (l.ff / 10)
      su := BitVec.ofNat 4 (l.ss % 10), st := BitVec.ofNat 3 (l.ss / 10)
      mu := BitVec.ofNat 4 (l.mm % 10), mt := BitVec.ofNat 3 (l.mm / 10)
      hu := BitVec.ofNat 4 (l.hh % 10), ht := BitVec.ofNat 2 (l.hh / 10)
      dfl := g.dfl, cfl := g.cfl
      ug1 := g.ub0, ug2 := g.ub1, ug3 := g.ub2, ug4 := g.ub3
      ug5 := 0, ug6 := 0, ug7 := 0, ug8 := 0
      x27 := false, x43 := false, x58 := false, x59 := false }

/-- The value of two digits (41 R145). -/
def twoDigits {m n : Nat} (tens : BitVec m) (units : BitVec n) : Nat := 10 * tens.toNat + units.toNat

/-- The fields of the frame as an `LTCFrame` (41 R145); the unassigned bits and user groups 5 to 8 are not
read. -/
def wordFrame (w : LtcWord) : LtcFrame where
  hh := BitVec.ofNat 8 (twoDigits w.ht w.hu)
  mm := BitVec.ofNat 8 (twoDigits w.mt w.mu)
  ss := BitVec.ofNat 8 (twoDigits w.st w.su)
  ff := BitVec.ofNat 8 (twoDigits w.ft w.fu)
  dfl := w.dfl
  cfl := w.cfl
  ub0 := w.ug1
  ub1 := w.ug2
  ub2 := w.ug3
  ub3 := w.ug4

/-- Step 2 of `decode`: a digit or a time value out of range (41 R146). -/
def badDigits (w : LtcWord) : Bool :=
  decide (9 < w.fu.toNat) || decide (9 < w.su.toNat) || decide (9 < w.mu.toNat) || decide (9 < w.hu.toNat) ||
    decide (5 < w.st.toNat) || decide (5 < w.mt.toNat) || decide (23 < twoDigits w.ht w.hu)

/-- `decode` (41 R146): the three checks in their order. -/
def decodeFrame (b : FrameBits) (fn : Nat) : Except FrameError LtcFrame :=
  let w := ltcFields b
  if syncok b = false then .error .badSyncWord
  else if badDigits w then .error .invalidBCD
  else if fn ≤ twoDigits w.ft w.fu then .error .frameRateMismatch
  else .ok (wordFrame w)

/-! ## The host commands -/

/-- `ENC` (41 R147). -/
def cmdEnc (s : State) : State :=
  let l := unpackTime s.ops.fldTime
  if inrange l (rateFn s.rate) then
    (s.putResult 0).putOps (s.ops.putFb (encodeFrame l (unpackFlags s.ops.fldFlags)))
  else s.putResult resultRange

/-- `DEC` (41 R148). -/
def cmdDec (s : State) : State :=
  match decodeFrame s.fb (rateFn s.rate) with
  | .ok f =>
    (s.putResult (resultSync (syncok s.fb) 0)).putOps
      { s.ops with fldTime := packTime (frameLabel f), fldFlags := packFlags (frameFlags f) }
  | .error e => s.putResult (resultSync (syncok s.fb) (ferrCode e))

/-- `SYNCCHK` (41 R149): `FB2[15:0]` alone. -/
def cmdSyncchk (s : State) : State :=
  s.putResult (resultSync (s.ops.fb2.extractLsb' 0 16 == syncWord) 0)

/-! ## The meanings -/

/-- `ENC`, opcode 0x01 (41 R147). -/
def execEnc (s : State) : Host.Outcome State Fault Refusal := .next (cmdEnc s)

/-- `DEC`, opcode 0x02 (41 R148). -/
def execDec (s : State) : Host.Outcome State Fault Refusal := .next (cmdDec s)

/-- `SYNCCHK`, opcode 0x03 (41 R149). -/
def execSyncchk (s : State) : Host.Outcome State Fault Refusal := .next (cmdSyncchk s)

end Sys2Proof.Machine
end

