-- ==== Sys2Proof/Machine/Timebase.lean ====
section
/-! DEFINITION. The timebase controller: labels, counts, positions, and the five commands that expose them (spec/44_timebase.md). -/

namespace Sys2Proof.Machine

/-! ## Labels and counts -/

/-- `lbl2cnt` (44 R234). -/
def labelCount (r : Rate) (l : Label) : Nat :=
  let c := ((l.hh * 60 + l.mm) * 60 + l.ss) * rateFn r + l.ff
  if rateDf r then
    let tm := 60 * l.hh + l.mm
    c - 2 * (tm - tm / 10)
  else c

/-- The drop-frame branch of `cnt2lbl`: the dropped labels put back (44 R235). -/
def undropCount (c : Nat) : Nat :=
  let d := c / 17982
  let m := c % 17982
  if m < 2 then c + 18 * d else c + 18 * d + 2 * ((m - 2) / 1798)

/-- `cnt2lbl` (44 R235). -/
def countLabel (r : Rate) (c : Nat) : Label :=
  let fn := rateFn r
  let c := if rateDf r then undropCount c else c
  { ff := c % fn
    ss := c / fn % 60
    mm := c / (60 * fn) % 60
    hh := c / (3600 * fn) % 24 }

/-- The count after `c`, modulo `DAY` (44 R237). -/
def nextCount (r : Rate) (c : Nat) : Nat := (c + 1) % rateDay r

/-! ## Positions -/

/-- `pos2cnt` (44 R238). -/
def posCount (r : Rate) (hidx : Bool) (idx ms : Nat) : Nat :=
  let n := (ms * rateNum r) / (1000 * rateDen r)
  if hidx then (idx % 24) * rateHour r + n % rateHour r else n % rateDay r

/-- `cnt2pos`, the index and the milliseconds (44 R239). -/
def countPos (r : Rate) (hidx : Bool) (c : Nat) : Nat × Nat :=
  let idx := if hidx then c / rateHour r else 0
  let w := if hidx then c % rateHour r else c
  (idx, ceilDiv (w * 1000 * rateDen r) (rateNum r))

/-! ## The host commands -/

/-- The label in `FLD_TIME` is in range at the configured rate (41 R143). -/
def State.timeInRange (s : State) : Bool := inrange (unpackTime s.ops.fldTime) (rateFn s.rate)

/-- The count of the label in `FLD_TIME`. -/
def State.timeCount (s : State) : Nat := labelCount s.rate (unpackTime s.ops.fldTime)

/-- `LBL2CNT` (44 R240). -/
def cmdLbl2cnt (s : State) : State :=
  if s.timeInRange then (s.putResult 0).putOps { s.ops with cntop := BitVec.ofNat 32 s.timeCount }
  else s.putResult resultRange

/-- `CNT2LBL` (44 R241). -/
def cmdCnt2lbl (s : State) : State :=
  if rateDay s.rate ≤ s.ops.cntop.toNat then s.putResult resultRange
  else (s.putResult 0).putOps { s.ops with fldTime := packTime (countLabel s.rate s.ops.cntop.toNat) }

/-- `INCLBL` (44 R242). -/
def cmdInclbl (s : State) : State :=
  if s.timeInRange then
    (s.putResult 0).putOps { s.ops with fldTime := packTime (countLabel s.rate (nextCount s.rate s.timeCount)) }
  else s.putResult resultRange

/-- `TOFRM` (44 R243). -/
def cmdTofrm (s : State) : State :=
  let c := posCount s.rate s.hidx s.ops.posidx.toNat s.ops.posms.toNat
  (s.putResult 0).putOps
    { s.ops with fldTime := packTime (countLabel s.rate c), fldFlags := packFlags s.builtFlags }

/-- `TOPOS` (44 R244). -/
def cmdTopos (s : State) : State :=
  if s.timeInRange then
    let p := countPos s.rate s.hidx s.timeCount
    (s.putResult 0).putOps { s.ops with posidx := BitVec.ofNat 32 p.1, posms := BitVec.ofNat 32 p.2 }
  else s.putResult resultRange

/-! ## The meanings -/

/-- `LBL2CNT`, opcode 0x04 (44 R240). -/
def execLbl2cnt (s : State) : Host.Outcome State Fault Refusal := .next (cmdLbl2cnt s)

/-- `CNT2LBL`, opcode 0x05 (44 R241). -/
def execCnt2lbl (s : State) : Host.Outcome State Fault Refusal := .next (cmdCnt2lbl s)

/-- `INCLBL`, opcode 0x06 (44 R242). -/
def execInclbl (s : State) : Host.Outcome State Fault Refusal := .next (cmdInclbl s)

/-- `TOFRM`, opcode 0x07 (44 R243). -/
def execTofrm (s : State) : Host.Outcome State Fault Refusal := .next (cmdTofrm s)

/-- `TOPOS`, opcode 0x08 (44 R244). -/
def execTopos (s : State) : Host.Outcome State Fault Refusal := .next (cmdTopos s)

end Sys2Proof.Machine
end

