-- ==== Sys2Proof/Machine/SyncEngine.lean ====
section
/-! DEFINITION. The sync engine: position inputs, emit sequencing, the lock-state machine and the drift policy (spec/45_sync_engine.md). -/

namespace Sys2Proof.Machine

/-! ## Emit mode -/

/-- The count of the next emitted frame (45 R272): the position's count on the first frame, the successor
while the position is within `EMITTOL` of it, and the position's count after a jump. -/
def emitCount (s : State) : Nat :=
  let p := posCount s.rate s.hidx s.pos.idx.toNat s.pos.ms.toNat
  let e := nextCount s.rate s.tb.cnt.toNat
  if s.tb.tbvalid = false then p
  else if absDiff p e ≤ s.creg.emittol.toNat then e
  else p

/-- `EMIT.NEXT` (45 R272). -/
def emitNext (s : State) : State :=
  let c := emitCount s
  let s := s.putTb { s.tb with cnt := BitVec.ofNat 22 c, tbvalid := true }
  s.putMod { s.mod with mbits := encodeFrame (countLabel s.rate c) s.builtFlags, mbit := 0, mpos := 0, mact := true }

/-! ## Receive mode -/

/-- `CNT <- c` (45 R282). -/
def loadCount (s : State) (c : Nat) : State :=
  s.putTb { s.tb with cnt := BitVec.ofNat 22 c, tbvalid := true }

/-- `append CORR(kind, idx, ms)` with `(idx, ms) = cnt2pos(c)` (45 R282, R291). -/
def appendCorr (s : State) (kind : CorrKind) (c : Nat) : State :=
  let p := countPos s.rate s.hidx c
  appendRecord s (.corr kind (BitVec.ofNat 32 p.1) (BitVec.ofNat 32 p.2))

/-- A `Jam` with the notification that goes with it when `CFG.FWD = 1` (45 R282, R292), and `CNT <- c`. -/
def jamTo (s : State) (c : Nat) (first : Bool) : State :=
  let s := loadCount (appendCorr s .jam c) c
  if s.fwd then appendRecord s (.notify first) else s

/-- A `Smooth`, and `CNT <- c` (45 R282). -/
def smoothTo (s : State) (c : Nat) : State := loadCount (appendCorr s .smooth c) c

/-- `SE.EVAL(c)` (45 R282, R283). -/
def seEval (c : Nat) (s : State) : State :=
  let a := absDiff s.tb.cnt.toNat c
  if s.tb.tbvalid = false then jamTo s c true
  else if s.extDis = false ∧ s.extF < a then recordConfigError (s.putSe { s.se with lock := .unlocked })
  else if a ≤ s.creg.smallthr.toNat then s
  else if a ≤ s.largeF then smoothTo s c
  else jamTo s c false

/-- The lock state after a valid frame of count `c`, before the drift is judged (45 R276, R280). -/
def lockOnFrame (r : Rate) (e : SyncEngine) (c : Nat) : Lock :=
  match e.lock with
  | .unlocked => .acquiring
  | .lost => .acquiring
  | .acquiring => if e.prevv = true ∧ c = nextCount r e.prevcnt.toNat then .locked else .acquiring
  | .locked => .locked

/-- `SE.FRAME(f)` (45 R280). -/
def seFrame (f : LtcFrame) (s : State) : State :=
  let c := labelCount s.rate (frameLabel f)
  let s := s.putStat
    { s.stat with
      okcnt := s.stat.okcnt + 1
      rxtime := packTime (frameLabel f)
      rxflags := packFlags (frameFlags f) }
  let s := s.putSe { s.se with gap := 0, lock := lockOnFrame s.rate s.se c }
  let s := if s.se.lock = .locked then seEval c s else s
  s.putSe { s.se with prevcnt := BitVec.ofNat 22 c, prevv := true }

/-- `SE.FERR(e)` (45 R285). -/
def seFerr (e : FrameError) (s : State) : State :=
  let s := recordFrameError s e
  if s.se.lock = .acquiring then s.putSe { s.se with prevv := false } else s

/-- `SE.TICK` (45 R286). -/
def seTick (s : State) : State :=
  let s := s.putTb { s.tb with cnt := BitVec.ofNat 22 (nextCount s.rate s.tb.cnt.toNat) }
  let s := s.putSe { s.se with gap := BitVec.ofNat 32 (sat32 (s.se.gap.toNat + 1)) }
  if s.se.lock = .locked ∧ s.failF < s.se.gap.toNat then s.putSe { s.se with lock := .lost, gap := 0 }
  else if s.se.lock = .lost ∧ s.failF < s.se.gap.toNat then s.putSe { s.se with lock := .unlocked, gap := 0 }
  else s

/-! ## The meanings -/

/-- `POS.IDX v`: `POSIN_IDX <- v`, nothing else (45 R270). -/
def execPosIdx (v : Reg32) (s : State) : Host.Outcome State Fault Refusal := .next (s.putPos { s.pos with idx := v })

/-- `POS.MS v`: `POSIN_MS <- v`, nothing else (45 R271). -/
def execPosMs (v : Reg32) (s : State) : Host.Outcome State Fault Refusal := .next (s.putPos { s.pos with ms := v })

/-- `EMIT.NEXT` (45 R272). -/
def execEmitNext (s : State) : Host.Outcome State Fault Refusal := .next (emitNext s)

/-- `SE.FRAME(f)` (45 R280). -/
def execSeFrame (f : LtcFrame) (s : State) : Host.Outcome State Fault Refusal := .next (seFrame f s)

/-- `SE.EVAL(c)` (45 R282). -/
def execSeEval (c : BitVec 22) (s : State) : Host.Outcome State Fault Refusal := .next (seEval c.toNat s)

/-- `SE.FERR(e)` (45 R285). -/
def execSeFerr (e : FrameError) (s : State) : Host.Outcome State Fault Refusal := .next (seFerr e s)

/-- `SE.TICK` (45 R286). -/
def execSeTick (s : State) : Host.Outcome State Fault Refusal := .next (seTick s)

end Sys2Proof.Machine
end

