-- ==== Sys2Proof/Machine/Demodulator.lean ====
section
/-! DEFINITION. The biphase-mark demodulator and the frame-boundary detector: `SMP.IN` and the operations it fires (spec/43_demodulator.md). -/

namespace Sys2Proof.Machine

/-! ## The local frame tick -/

/-- `RX.TICKGEN` (43 R191). -/
def rxTickgen (s : State) : State :=
  let acc := s.tb.rxtacc.toNat + rateNum s.rate
  if s.rateA ≤ acc then seTick (s.putTb { s.tb with rxtacc := BitVec.ofNat 40 (acc - s.rateA) })
  else s.putTb { s.tb with rxtacc := BitVec.ofNat 40 acc }

/-! ## The edge detector -/

/-- The leak of both trackers: one 256th of the envelope (`ENV_SHIFT` = 8), at least 1 while it is open
(43 R192). -/
def envLeak (hi lo : Int) : Int :=
  let leak := (hi - lo) / 256
  if leak = 0 ∧ lo < hi then 1 else leak

/-- `DEMOD.EDGE(s)` on the demodulator's state (43 R192): whether an edge was detected, and the trackers and
the level after. `>>a n` is floor division by `2^n` (00 R9). -/
def edgeDetect (d : Demodulator) (x : Sample) : Bool × Demodulator :=
  let leak := envLeak d.ehi.toInt d.elo.toInt
  let hi := max x.toInt (d.ehi.toInt - leak)
  let lo := min x.toInt (d.elo.toInt + leak)
  let mid := (hi + lo) / 2
  let hys := (hi - lo) / 4
  let d := { d with ehi := BitVec.ofInt 16 hi, elo := BitVec.ofInt 16 lo }
  if d.dlvl = false ∧ mid + hys < x.toInt then (true, { d with dlvl := true })
  else if d.dlvl = true ∧ x.toInt < mid - hys then (true, { d with dlvl := false })
  else (false, d)

/-- `DEMOD.EDGE(s)` on the whole state; the bit it returns is `(edgeDetect s.dem x).1`. -/
def demodEdge (x : Sample) (s : State) : State := s.putDem (edgeDetect s.dem x).2

/-! ## The frame-boundary detector -/

/-- `RX.DEC` (43 R198). -/
def rxDec (s : State) : State :=
  match decodeFrame s.fbd.rxsr (rateFn s.rate) with
  | .ok f => seFrame f s
  | .error e => seFerr e s

/-- `RXSR <- {b, RXSR[79:1]}` (43 R197). -/
def shiftIn (b : Bool) (r : FrameBits) : FrameBits := (r >>> 1) ||| bitAt 80 79 b

/-- `FBD.SHIFT(b)` (43 R197). -/
def fbdShift (b : Bool) (s : State) : State :=
  let sr := shiftIn b s.fbd.rxsr
  let cnt := s.fbd.rxcnt + 1
  let s := s.putFbd ⟨sr, cnt⟩
  if syncok sr = true ∨ cnt = 80#7 then
    let s := if cnt = 80#7 then rxDec s else s
    s.putFbd { s.fbd with rxcnt := 0 }
  else s

/-! ## The cell classifier -/

/-- `q(d)` (43 R194). -/
def intervalQ (r : Rate) (d : Nat) : Nat := 640 * rateNum r * d

/-- `short(d)`: one half-cell (43 R194). -/
def State.shortInterval (s : State) (d : Nat) : Bool :=
  decide (3 * s.rateA ≤ intervalQ s.rate d) && decide (intervalQ s.rate d ≤ 5 * s.rateA)

/-- `long(d)`: one whole cell (43 R194). -/
def State.longInterval (s : State) (d : Nat) : Bool :=
  decide (7 * s.rateA ≤ intervalQ s.rate d) && decide (intervalQ s.rate d ≤ 9 * s.rateA)

/-- `DEMOD.CLS(d)` (43 R195). -/
def demodCls (d : Reg32) (s : State) : State :=
  if s.shortInterval d.toNat then
    if s.dem.half = true then fbdShift true (s.putDem { s.dem with half := false })
    else s.putDem { s.dem with half := true }
  else if s.longInterval d.toNat then fbdShift false (s.putDem { s.dem with half := false })
  else s.putDem { s.dem with half := false }

/-! ## The receive sample step -/

/-- What `SMP.IN` does at an edge, `d` being the interval (43 R190): the timer restarts, and every edge after
the first is classified. -/
def onEdge (s : State) : State :=
  let d := s.dem.tmr
  let s := s.putDem { s.dem with tmr := 0 }
  let s := if s.dem.tmrv = true then demodCls d s else s
  s.putDem { s.dem with tmrv := true }

/-- `SMP.IN s` (43 R190): first the local tick, then the edge detector, the timer, and what the edge ends. -/
def smpIn (x : Sample) (s : State) : State :=
  if s.run.runRecv = false then s
  else
    let s := rxTickgen s
    let edge := (edgeDetect s.dem x).1
    let s := demodEdge x s
    let s := s.putDem { s.dem with tmr := BitVec.ofNat 32 (sat32 (s.dem.tmr.toNat + 1)) }
    if edge then onEdge s else s

/-! ## A frame on the line -/

/-- The bits `79 − n + 1` to `79` of `b` shifted in, the lowest first. -/
def shiftBits (b : FrameBits) : Nat → State → State
  | 0, s => s
  | n + 1, s => shiftBits b n (fbdShift (b.getLsbD (79 - n)) s)

/-- The reception of a whole frame word: its 80 bits reach the frame-boundary detector in time order, bit 0
first (30 R108, 43 R197); without a running receive path nothing is received (43 R190; log entry 7). -/
def receiveFrame (w : LtcWord) (s : State) : State :=
  if s.run.runRecv = false then s else shiftBits (ltcBits w) 80 s

/-! ## The meanings -/

/-- `SMP.IN s` (43 R190). -/
def execSmpIn (x : Sample) (s : State) : Host.Outcome State Fault Refusal := .next (smpIn x s)

/-- `RX.TICKGEN` (43 R191). -/
def execRxTickgen (s : State) : Host.Outcome State Fault Refusal := .next (rxTickgen s)

/-- `DEMOD.EDGE(s)` (43 R192); the bit it returns to `SMP.IN` is 1 exactly when `DLVL` has changed. -/
def execDemodEdge (x : Sample) (s : State) : Host.Outcome State Fault Refusal := .next (demodEdge x s)

/-- `DEMOD.CLS(d)` (43 R195). -/
def execDemodCls (d : Reg32) (s : State) : Host.Outcome State Fault Refusal := .next (demodCls d s)

/-- `FBD.SHIFT(b)` (43 R197). -/
def execFbdShift (b : Bool) (s : State) : Host.Outcome State Fault Refusal := .next (fbdShift b s)

/-- `RX.DEC` (43 R198). -/
def execRxDec (s : State) : Host.Outcome State Fault Refusal := .next (rxDec s)

/-- The frame word `F-LTC` (30 R101), received (log entry 7). -/
def execLtcFrame (w : LtcWord) (s : State) : Host.Outcome State Fault Refusal := .next (receiveFrame w s)

end Sys2Proof.Machine
end

