-- ==== Sys2Proof/Machine/HostControl.lean ====
section
/-! DEFINITION. Host control: register access, commands, enable and disable, device error, reset (spec/46_host_control.md, spec/70_reset_and_hazards.md). -/

namespace Sys2Proof.Machine

/-! ## Commands -/

/-- `NOP` (46 R323). -/
def cmdNop (s : State) : State := s.putResult 0

/-- `CLRERR` (46 R324). -/
def cmdClrerr (s : State) : State := clearErrors (s.putResult 0)

/-- `SRESET` (46 R325). -/
def cmdSreset (s : State) : State := resetCore s

/-- A reserved opcode (46 R326). -/
def cmdReserved (s : State) : State := s.putResult resultCmdErr

/-- The command of an opcode, performed (46 R322, 30 R120). -/
def runCommand (op : BitVec 8) (s : State) : State :=
  match op.toNat with
  | 0x00 => cmdNop s
  | 0x01 => cmdEnc s
  | 0x02 => cmdDec s
  | 0x03 => cmdSyncchk s
  | 0x04 => cmdLbl2cnt s
  | 0x05 => cmdCnt2lbl s
  | 0x06 => cmdInclbl s
  | 0x07 => cmdTofrm s
  | 0x08 => cmdTopos s
  | 0x09 => cmdClrerr s
  | 0x0A => cmdSreset s
  | _ => cmdReserved s

/-! ## `REG.WR CTRL` -/

/-- What a write of `CTRL` grants (46 R330): the two enable bits, and whether a `ConfigurationError` was
found. The checks are made in the rule's order. -/
structure CtrlGrant where
  enOut : Bool
  enIn : Bool
  refused : Bool
  deriving DecidableEq, Repr

/-- The checks of 46 R330: both at once, then `cfg_ok` if a start is asked for, then the other path running. -/
def ctrlGrant (eo ei : Bool) (s : State) : CtrlGrant :=
  let both := eo && ei
  let eo := eo && !both
  let ei := ei && !both
  let bad := ((eo && !s.run.runEmit) || (ei && !s.run.runRecv)) && !s.cfgOk
  let eo := if bad && !s.run.runEmit then false else eo
  let ei := if bad && !s.run.runRecv then false else ei
  let clashOut := eo && s.run.runRecv
  let eo := eo && !clashOut
  let clashIn := ei && s.run.runEmit
  let ei := ei && !clashIn
  ⟨eo, ei, both || bad || clashOut || clashIn⟩

/-- `REG.WR CTRL` (46 R330): the granted bits are stored, then the paths start and stop. -/
def ctrlWrite (eo ei : Bool) (s : State) : State :=
  let g := ctrlGrant eo ei s
  let s := if g.refused then recordConfigError s else s
  let s := s.putRun { s.run with ctrl := ctrlWord g.enOut g.enIn }
  let s := if g.enOut && !s.run.runEmit then startEmit s else s
  let s := if g.enIn && !s.run.runRecv then startRecv s else s
  let s := if !g.enIn && s.run.runRecv then stopRecv s else s
  if !g.enOut && s.run.runEmit && !s.mod.mact then emitStop s else s

/-! ## Register access -/

/-- `RegWrite(addr, data)` (46 R321). A read-only register has no writable bit in `storeReg`. -/
def writeOffset (a : Offset) (data : Reg32) (s : State) : State :=
  match regOfOffset a with
  | none => s
  | some .ctrl => ctrlWrite (data.getLsbD 0) (data.getLsbD 1) s
  | some .cmd => runCommand (data.setWidth 8) s
  | some r => if regLocked r && s.running then s else storeReg s r data

/-! ## Device error -/

/-- `DEV.ERR` (46 R336). -/
def devErr (s : State) : State :=
  let s := recordDeviceError s
  let s := s.putRun { s.run with ctrl := ctrlWord false false }
  let s := if s.run.runRecv then stopRecv s else s
  if s.run.runEmit then emitStop s else s

/-! ## The meanings: commands -/

/-- `NOP`, opcode 0x00 (46 R323). -/
def execNop (s : State) : Host.Outcome State Fault Refusal := .next (cmdNop s)

/-- `CLRERR`, opcode 0x09 (46 R324). -/
def execClrerr (s : State) : Host.Outcome State Fault Refusal := .next (cmdClrerr s)

/-- `SRESET`, opcode 0x0A (46 R325). -/
def execSreset (s : State) : Host.Outcome State Fault Refusal := .next (cmdSreset s)

/-- The reserved opcode 0x0B (46 R326). -/
def execReservedCmd0B (s : State) : Host.Outcome State Fault Refusal := .next (cmdReserved s)

/-- The reserved opcodes 0x0C to 0x0F (46 R326). -/
def execReservedCmd0C (_lo : BitVec 2) (s : State) : Host.Outcome State Fault Refusal := .next (cmdReserved s)

/-- The reserved opcodes 0x10 to 0x1F (46 R326). -/
def execReservedCmd10 (_lo : BitVec 4) (s : State) : Host.Outcome State Fault Refusal := .next (cmdReserved s)

/-- The reserved opcodes 0x20 to 0x3F (46 R326). -/
def execReservedCmd20 (_lo : BitVec 5) (s : State) : Host.Outcome State Fault Refusal := .next (cmdReserved s)

/-- The reserved opcodes 0x40 to 0x7F (46 R326). -/
def execReservedCmd40 (_lo : BitVec 6) (s : State) : Host.Outcome State Fault Refusal := .next (cmdReserved s)

/-- The reserved opcodes 0x80 to 0xFF (46 R326). -/
def execReservedCmd80 (_lo : BitVec 7) (s : State) : Host.Outcome State Fault Refusal := .next (cmdReserved s)

/-! ## The meanings: events -/

/-- `RST` (70 R390). -/
def execRst (s : State) : Host.Outcome State Fault Refusal := .next (resetCore s)

/-- `REG.WR addr, data` (46 R321), at any offset. -/
def execRegWr (a : Offset) (data : Reg32) (s : State) : Host.Outcome State Fault Refusal :=
  .next (writeOffset a data s)

/-- `REG.RD addr` (46 R320): the value is returned and nothing changes. -/
def execRegRd (a : Offset) (s : State) : Host.Outcome State Fault Refusal :=
  .next (s.putRet (some (.reg (readOffset s a))))

/-- `REG.WR CTRL` (46 R330). -/
def execRegWrCtrl (eo ei : Bool) (s : State) : Host.Outcome State Fault Refusal := .next (ctrlWrite eo ei s)

/-- `REG.WR CMD` (46 R322). -/
def execRegWrCmd (op : BitVec 8) (s : State) : Host.Outcome State Fault Refusal := .next (runCommand op s)

/-- `DEV.ERR` (46 R336). -/
def execDevErr (s : State) : Host.Outcome State Fault Refusal := .next (devErr s)

/-- A word of kind 0x8 to 0xF is no event: a replayer refuses it (30 R125, 93 U16; log entry 11). -/
def execReservedKind (kind : BitVec 3) (_addr : Offset) (_data : Reg32) (_s : State) :
    Host.Outcome State Fault Refusal :=
  .refused (.reservedKind (0x8#4 ||| kind.setWidth 4))

/-! ## The meanings: internal operations -/

/-- `START.EMIT` (46 R332). -/
def execStartEmit (s : State) : Host.Outcome State Fault Refusal := .next (startEmit s)

/-- `START.RECV` (46 R333). -/
def execStartRecv (s : State) : Host.Outcome State Fault Refusal := .next (startRecv s)

/-- `EMIT.STOP` (46 R334). -/
def execEmitStop (s : State) : Host.Outcome State Fault Refusal := .next (emitStop s)

/-- `STOP.RECV` (46 R335). -/
def execStopRecv (s : State) : Host.Outcome State Fault Refusal := .next (stopRecv s)

end Sys2Proof.Machine
end

