-- ==== Sys2Proof/Config.lean ====
section
/-! DEFINITION. What the spec leaves to the implementation: the one open parameter `AMPL` (00 R6, 42 R173). -/

namespace Sys2Proof.Config

/-- `AMPL − 1`, a value nothing in Lean can evaluate: the spec leaves `AMPL` open within its bounds
(00 R6; DESIGN CHOICE of the spec D13; log entry 4). Safe: every claim holds for every `AMPL`. -/
opaque amplLessOne : Fin 32767

/-- `AMPL`, the magnitude of an output sample, 1 ≤ AMPL ≤ 32767 (00 R6). -/
def ampl : Nat := amplLessOne.val + 1

end Sys2Proof.Config
end

