-- ==== Sys2Proof/Machine/Modulator.lean ====
section
/-! DEFINITION. The biphase-mark modulator: `SMP.OUT` and `MOD.CELL` (spec/42_modulator.md). -/

namespace Sys2Proof.Machine

/-- `MOD.CELL` (42 R171): the length of the cell, the carried remainder, and the transition at its start. -/
def modCell (s : State) : State :=
  let t := s.mod.macc.toNat + s.rateA
  s.putMod
    { s.mod with
      mlen := BitVec.ofNat 32 (t / s.rateB)
      macc := BitVec.ofNat 18 (t % s.rateB)
      mlvl := !s.mod.mlvl }

/-- The mid-cell transition of a 1 (42 R170, R175). -/
def midToggle (s : State) : State :=
  if s.mod.mbits.getLsbD s.mod.mbit.toNat = true ∧ s.mod.mpos.toNat = s.mod.mlen.toNat / 2 then
    s.putMod { s.mod with mlvl := !s.mod.mlvl }
  else s

/-- `+AMPL` when `MLVL = 1`, `−AMPL` when `MLVL = 0` (42 R173). -/
def sampleOf (mlvl : Bool) : Sample :=
  if mlvl then BitVec.ofNat 16 Config.ampl else -(BitVec.ofNat 16 Config.ampl)

/-- The end of a sample: `MPOS` moves on, at the end of a cell `MBIT` does, and after bit 79 the frame is
complete (42 R170). -/
def advanceSample (s : State) : State :=
  let pos := s.mod.mpos + 1
  if pos = s.mod.mlen then
    if s.mod.mbit.toNat = 79 then s.putMod { s.mod with mpos := 0, mbit := 0, mact := false }
    else s.putMod { s.mod with mpos := 0, mbit := s.mod.mbit + 1 }
  else s.putMod { s.mod with mpos := pos }

/-- The part of `SMP.OUT` that produces a sample of the frame in progress (42 R170). -/
def emitSample (s : State) : State :=
  let s := if s.mod.mpos = 0 then modCell s else s
  let s := midToggle s
  (advanceSample s).putRet (some (.sample (sampleOf s.mod.mlvl)))

/-- `SMP.OUT` (42 R170, R176). -/
def smpOut (s : State) : State :=
  if s.run.runEmit = false then s.putRet (some (.sample 0))
  else if s.mod.mact = true then emitSample s
  else if s.enOut = false then (emitStop s).putRet (some (.sample 0))
  else emitSample (emitNext s)

/-! ## The meanings -/

/-- `SMP.OUT` (42 R170). -/
def execSmpOut (s : State) : Host.Outcome State Fault Refusal := .next (smpOut s)

/-- `MOD.CELL` (42 R171). -/
def execModCell (s : State) : Host.Outcome State Fault Refusal := .next (modCell s)

end Sys2Proof.Machine
end

