-- ==== Sys2Proof/Machine/Dispatch.lean ====
section
/-! DEFINITION. One arm for each row of the opcode table. -/

namespace Sys2Proof.Machine

def exec (i : Instr) (s : State) : Host.Outcome State Fault Refusal :=
  match i with
  | .nop => Sys2Proof.Machine.execNop s
  | .enc => Sys2Proof.Machine.execEnc s
  | .dec => Sys2Proof.Machine.execDec s
  | .syncchk => Sys2Proof.Machine.execSyncchk s
  | .lbl2cnt => Sys2Proof.Machine.execLbl2cnt s
  | .cnt2lbl => Sys2Proof.Machine.execCnt2lbl s
  | .inclbl => Sys2Proof.Machine.execInclbl s
  | .tofrm => Sys2Proof.Machine.execTofrm s
  | .topos => Sys2Proof.Machine.execTopos s
  | .clrerr => Sys2Proof.Machine.execClrerr s
  | .sreset => Sys2Proof.Machine.execSreset s
  | .reservedCmd0B => Sys2Proof.Machine.execReservedCmd0B s
  | .reservedCmd0C lo => Sys2Proof.Machine.execReservedCmd0C lo s
  | .reservedCmd10 lo => Sys2Proof.Machine.execReservedCmd10 lo s
  | .reservedCmd20 lo => Sys2Proof.Machine.execReservedCmd20 lo s
  | .reservedCmd40 lo => Sys2Proof.Machine.execReservedCmd40 lo s
  | .reservedCmd80 lo => Sys2Proof.Machine.execReservedCmd80 lo s
  | .rst => Sys2Proof.Machine.execRst s
  | .regWr addr data => Sys2Proof.Machine.execRegWr addr data s
  | .regRd addr => Sys2Proof.Machine.execRegRd addr s
  | .smpIn x => Sys2Proof.Machine.execSmpIn x s
  | .smpOut => Sys2Proof.Machine.execSmpOut s
  | .posIdx v => Sys2Proof.Machine.execPosIdx v s
  | .posMs v => Sys2Proof.Machine.execPosMs v s
  | .devErr => Sys2Proof.Machine.execDevErr s
  | .reservedKind kind addr data => Sys2Proof.Machine.execReservedKind kind addr data s
  | .regWrCtrl enOut enIn => Sys2Proof.Machine.execRegWrCtrl enOut enIn s
  | .regWrCmd op => Sys2Proof.Machine.execRegWrCmd op s
  | .modCell => Sys2Proof.Machine.execModCell s
  | .emitNext => Sys2Proof.Machine.execEmitNext s
  | .emitStop => Sys2Proof.Machine.execEmitStop s
  | .startEmit => Sys2Proof.Machine.execStartEmit s
  | .startRecv => Sys2Proof.Machine.execStartRecv s
  | .stopRecv => Sys2Proof.Machine.execStopRecv s
  | .rxTickgen => Sys2Proof.Machine.execRxTickgen s
  | .demodEdge x => Sys2Proof.Machine.execDemodEdge x s
  | .demodCls d => Sys2Proof.Machine.execDemodCls d s
  | .fbdShift b => Sys2Proof.Machine.execFbdShift b s
  | .rxDec => Sys2Proof.Machine.execRxDec s
  | .seFrame f => Sys2Proof.Machine.execSeFrame f s
  | .seEval c => Sys2Proof.Machine.execSeEval c s
  | .seFerr e => Sys2Proof.Machine.execSeFerr e s
  | .seTick => Sys2Proof.Machine.execSeTick s
  | .ltcFrame w => Sys2Proof.Machine.execLtcFrame w s

end Sys2Proof.Machine
end

