-- ==== Sys2Proof/Machine/Step.lean ====
section
/-! DEFINITION. One step of the core: one interface event, atomically (00 R5). -/

namespace Sys2Proof.Machine

/-- One step handles the next event of the list; with no event waiting nothing happens (00 R5, 60 R376; log
entry 1). -/
def step (s : State) : Host.Outcome State Fault Refusal :=
  match fetch s with
  | none => .next s
  | some (w, s') => exec (decodeStim w) s'

/-- `s` with a table row's word where the very next step takes it: a command as the `REG.WR` of `CMD` that
issues it, an event as itself, a frame as the receive path one edge away from it (log entries 5 and 8). -/
def State.withFetchWord (s : State) (nbits w : Nat) : State :=
  if nbits ≤ 32 then pushEvent s (cmdStim (BitVec.ofNat 32 w))
  else if nbits ≤ 48 then pushEvent s (BitVec.ofNat 48 w)
  else pushFrame s (BitVec.ofNat 80 w)

end Sys2Proof.Machine
end

