-- ==== Sys2Proof/Safety.lean ====
section
/-! DEFINITION. What counts as a sound state and a safe step, in the terms the claims use: the invariants the spec states of its own state, the valid labels, and the counter rule. -/

namespace Sys2Proof.Machine

/-! ## Invariants -/

/-- Reserved register bits read 0 (10 R21, R26, R30, R31, R38). -/
abbrev ReservedBitsZero (s : State) : Prop :=
  s.run.ctrl.toNat < 2 ^ 2 ∧ s.creg.cfg.toNat < 2 ^ 5 ∧ s.creg.ubits.toNat < 2 ^ 16 ∧
  s.ops.fldFlags.toNat < 2 ^ 18 ∧ s.ops.fb2.toNat < 2 ^ 16 ∧ s.stat.rxflags.toNat < 2 ^ 18 ∧
  s.result &&& 0xFFFFFECC#32 = 0#32

/-- The run flags and enable bits form one of the four run states: stopped, emitting, draining, receiving
(46 R337). -/
abbrev RunStateLegal (s : State) : Prop :=
  (s.run.runEmit = false ∧ s.run.runRecv = false ∧ s.enOut = false ∧ s.enIn = false) ∨
  (s.run.runEmit = true ∧ s.run.runRecv = false ∧ s.enOut = true ∧ s.enIn = false) ∨
  (s.run.runEmit = true ∧ s.run.runRecv = false ∧ s.enOut = false ∧ s.enIn = false) ∨
  (s.run.runEmit = false ∧ s.run.runRecv = true ∧ s.enOut = false ∧ s.enIn = true)

/-- The ranges of 10 R50 and R52 to R54: bit and sample indices, counts below `DAY`, the accumulators below
their moduli. -/
abbrev CountersInRange (s : State) : Prop :=
  s.mod.mbit.toNat < 80 ∧ s.fbd.rxcnt.toNat < 80 ∧ s.tb.cnt.toNat < rateDay s.rate ∧
  s.se.prevcnt.toNat < rateDay s.rate ∧ s.mod.macc.toNat < s.rateB ∧
  (s.mod.mact = true → s.mod.mpos = 0 ∨ s.mod.mpos.toNat < s.mod.mlen.toNat) ∧
  (s.run.runRecv = true → s.tb.rxtacc.toNat < s.rateA)

/-- `ELO ≤ EHI` (10 R51, 43 R192). -/
abbrev EnvelopeOrdered (s : State) : Prop := s.dem.elo.toInt ≤ s.dem.ehi.toInt

/-- The streaming state of a path that does not run is at its reset values (10 R58, 46 R334, R335). -/
abbrev StoppedPathsReset (s : State) : Prop :=
  (s.run.runEmit = false → s.mod = .reset) ∧
  (s.run.runRecv = false → s.dem = .reset ∧ s.fbd = .reset ∧ s.se = .reset ∧ s.tb.rxtacc = 0) ∧
  (s.running = false → s.tb = .reset)

/-- A path runs only with a validated configuration (46 R331, 10 R47). -/
abbrev RunsValidated (s : State) : Prop := s.running = true → s.cfgOk = true

/-- The invariant of the core. -/
abbrev SoundState (s : State) : Prop :=
  ReservedBitsZero s ∧ RunStateLegal s ∧ CountersInRange s ∧ EnvelopeOrdered s ∧ StoppedPathsReset s ∧
  RunsValidated s

/-! ## Labels -/

/-- A dropped label: at 29.97, frames 0 and 1 of a minute that is not a multiple of ten (44 R232). -/
abbrev DroppedLabel (r : Rate) (l : Label) : Prop :=
  rateDf r = true ∧ l.ss = 0 ∧ l.ff < 2 ∧ l.mm % 10 ≠ 0

/-- The valid labels of a rate (44 R231). -/
abbrev ValidLabel (r : Rate) (l : Label) : Prop :=
  l.hh ≤ 23 ∧ l.mm ≤ 59 ∧ l.ss ≤ 59 ∧ l.ff < rateFn r ∧ ¬DroppedLabel r l

/-- `l` comes before `l'` as a time of day (44 R231). -/
abbrev Label.before (l l' : Label) : Prop :=
  l.hh < l'.hh ∨ (l.hh = l'.hh ∧ (l.mm < l'.mm ∨ (l.mm = l'.mm ∧ (l.ss < l'.ss ∨ (l.ss = l'.ss ∧ l.ff < l'.ff)))))

/-- The counter rule of 44 R237: how a frame counter goes from a label to the next. -/
def counterNext (r : Rate) (l : Label) : Label :=
  if l.ff + 1 ≠ rateFn r then { l with ff := l.ff + 1 }
  else if l.ss + 1 ≠ 60 then { l with ff := 0, ss := l.ss + 1 }
  else
    let mm := if l.mm + 1 = 60 then 0 else l.mm + 1
    let hh := if l.mm + 1 = 60 then (l.hh + 1) % 24 else l.hh
    { hh := hh, mm := mm, ss := 0, ff := if rateDf r = true ∧ mm % 10 ≠ 0 then 2 else 0 }

/-! ## Frame bits -/

/-- The frame bits that carry something: all but 27, 36 to 39, 43 to 47, 52 to 55 and 58 to 63 (30 R105,
R106; 41 R145). -/
def carriedBits : FrameBits := 0xFFFF030F070FF7FFFFFF#80

/-! ## Stops -/

/-- The step that handles `w` is refused: `w` is no event (30 R125). -/
abbrev NoEvent (w : Stim) : Prop := w.getLsbD 47 = true

end Sys2Proof.Machine
end

