-- ==== Sys2Proof/Certificates/Slice0/Obligations.lean ====
section
/-! DEFINITION. The statements for the provers. A record update in a conclusion is its frame: every state element it does not name is unchanged. -/

open Sys2Proof Sys2Proof.Machine

/-! ## Encodings -/

/-- Decoding the word of a well-formed instruction gives the instruction back, every operand at every value
(30 R101, R120, R125). -/
def Obligations.DecodeOfEncodeIsTheInstruction : Prop :=
  ∀ (i : Instr) (c : CodeWord), i.wf = true → encode i = some c → decode c = .ok i

/-- Every instruction the decoder reads is well formed and has a word, and the word it is written as reads as
the same instruction: no row falls through to a neighbour (30 R120, R125). -/
def Obligations.DecodedInstructionsAreCanonical : Prop :=
  ∀ (c : CodeWord) (i : Instr), decode c = .ok i →
    i.wf = true ∧ ∃ c', encode i = some c' ∧ decode c' = .ok i

/-- A few words written out from the spec read as the instructions they stand for: `ENC` is 0x103C00000001
(30 R125), and the words of the programs of spec/95_test_vectors.md. -/
def Obligations.WordsFromTheSpecDecode : Prop :=
  decodeTableWord 32 0x00000101 = some .enc ∧
  decodeTableWord 8 0xFF = some (.reservedCmd80 0x7F#7) ∧
  decodeTableWord 48 0x103C00000001 = some (.regWrCmd 0x01#8) ∧
  decodeTableWord 48 0x100000000002 = some (.regWrCtrl false true) ∧
  decodeTableWord 48 0x1028173B3B1D = some (.regWr 0x028#12 0x173B3B1D#32) ∧
  decodeTableWord 48 0x204000000000 = some (.regRd 0x040#12) ∧
  decodeTableWord 48 0x3000FFFFC000 = some (.smpIn 0xC000#16) ∧
  decodeTableWord 80 0xBFFC0001000200030003 ≠ decodeTableWord 80 0xBFFC0001000200030004 ∧
  decodeTableWord 80 0x3FFD0001000200030004 = none

/-- The command register performs the command its opcode decodes to, for every opcode (30 R120, 46 R322), and
a plain `REG.WR` to the offsets of `CMD` and `CTRL` is the same as their own rows (46 R321). -/
def Obligations.CommandRegisterPerformsTheOpcode : Prop :=
  (∀ (op : BitVec 8) (s : State), ∃ t, exec (.regWrCmd op) s = .next t ∧ exec (decodeOpcode op) s = .next t) ∧
  (∀ (d : Reg32) (s : State), exec (.regWr 0x03C#12 d) s = exec (decodeCmd d) s) ∧
  (∀ (d : Reg32) (s : State), exec (.regWr 0x000#12 d) s = exec (.regWrCtrl (d.getLsbD 0) (d.getLsbD 1)) s)

/-! ## The step -/

/-- The next event's word is taken off the list and the instruction it decodes to is run, with nothing
returned yet; with no event waiting the state stays as it is (00 R5; log entry 1). -/
def Obligations.StepRunsTheDecodedEvent : Prop :=
  (∀ (s : State) (w : Stim) (rest : List Stim), s.events = w :: rest →
    ∃ i, decode (.stim w) = .ok i ∧ step s = exec i { s with events := rest, ret := none }) ∧
  (∀ s : State, s.events = [] → step s = .next s)

/-- A command, an event, and a frame placed by `withFetchWord` are run by the very next step: the command's
meaning, the event's meaning, and for a frame the decode of exactly that frame at the configured rate, its
fields recorded when it is valid and its error when it is not (log entries 5 and 8: the model's choice). -/
def Obligations.PlacedWordIsRunByTheNextStep : Prop :=
  (∀ (s : State) (w : Nat), ∃ i, decodeTableWord 8 w = some i ∧
    step (s.withFetchWord 8 w) = exec i { s with ret := none }) ∧
  (∀ (s : State) (w : Nat), ∃ i, decodeTableWord 48 w = some i ∧
    step (s.withFetchWord 48 w) = exec i { s with ret := none }) ∧
  (∀ (s : State) (b : FrameBits), ∃ t, step (s.withFetchWord 80 b.toNat) = .next t ∧
    t.fbd.rxsr = b ∧ t.fbd.rxcnt = 0 ∧
    (∀ f, decodeFrame b (rateFn s.rate) = .ok f →
      t.stat.okcnt = s.stat.okcnt + 1 ∧ unpackTime t.stat.rxtime = frameLabel f ∧
      unpackFlags t.stat.rxflags = frameFlags f ∧ t.stat.ferrcnt = s.stat.ferrcnt) ∧
    (∀ e, decodeFrame b (rateFn s.rate) = .error e →
      t.stat.ferrcnt = s.stat.ferrcnt + 1 ∧ t.err.lastferr = ferrCode e ∧ t.stat.okcnt = s.stat.okcnt))

/-- A step never faults, and it is refused exactly when the next word is no event (30 R125, 60 R360). -/
def Obligations.OnlyReservedKindsStop : Prop :=
  (∀ (s : State) (f : Fault), step s ≠ .fault f) ∧
  (∀ s : State, (∃ r, step s = .refused r) ↔ ∃ w rest, s.events = w :: rest ∧ NoEvent w) ∧
  (∀ (k : BitVec 3) (a : Offset) (d : Reg32) (s : State),
    ∃ n : BitVec 4, exec (.reservedKind k a d) s = .refused (.reservedKind n) ∧ n.toNat = 8 + k.toNat)

/-! ## Reset and the register file -/

/-- `RST` and `SRESET` have the same effect (46 R325, 70 R391): every state element takes the reset value of
10 R59, seen through the whole register space and in the internal state; the records already appended stay
(70 R390). That the waiting events and the value returned stay too is the model's choice (log entry 2). -/
def Obligations.ResetGivesEveryElementItsValue : Prop :=
  ∀ s : State, ∃ t, exec .rst s = .next t ∧ exec .sreset s = .next t ∧
    (∀ a : Offset, readOffset t a =
      if a = 0x010#12 then 1#32 else if a = 0x014#12 then 1000#32 else if a = 0x018#12 then 2000#32
      else if a = 0x01C#12 then 0xFFFFFFFF#32 else if a = 0x020#12 then 1#32 else 0#32) ∧
    t.run = ⟨0, false, false⟩ ∧ t.err = ⟨false, false, 0⟩ ∧ t.mod = ⟨false, 0, 0, 0, 0, 0, false⟩ ∧
    t.dem = ⟨0, 0, false, 0, false, false⟩ ∧ t.fbd = ⟨0, 0⟩ ∧ t.tb = ⟨0, false, 0⟩ ∧
    t.se = ⟨.unlocked, 0, false, 0⟩ ∧ t.pos = ⟨0, 0⟩ ∧ t.stat = ⟨0, 0, 0, 0⟩ ∧
    t.records = s.records ∧ t.events = s.events ∧ t.ret = s.ret

/-- `REG.RD` returns the register at the offset and changes nothing else: stored registers their value,
`TBCNT` and `GAPCNT` the state they show, `CMD`, unmapped and misaligned offsets 0 (46 R320, 20 R71). -/
def Obligations.RegisterReadReturnsTheRegister : Prop :=
  ∀ (s : State) (a : Offset), ∃ v : Reg32, exec (.regRd a) s = .next { s with ret := some (.reg v) } ∧
    (a = 0x000#12 → v = s.run.ctrl) ∧ (a = 0x004#12 → v = s.status) ∧ (a = 0x008#12 → v = s.creg.cfg) ∧
    (a = 0x00C#12 → v = s.creg.srate) ∧ (a = 0x010#12 → v = s.creg.smallthr) ∧
    (a = 0x014#12 → v = s.creg.largethr) ∧ (a = 0x018#12 → v = s.creg.failthr) ∧
    (a = 0x01C#12 → v = s.creg.exthr) ∧ (a = 0x020#12 → v = s.creg.emittol) ∧
    (a = 0x024#12 → v = s.creg.ubits) ∧ (a = 0x028#12 → v = s.ops.fldTime) ∧
    (a = 0x02C#12 → v = s.ops.fldFlags) ∧ (a = 0x030#12 → v = s.ops.fb0) ∧ (a = 0x034#12 → v = s.ops.fb1) ∧
    (a = 0x038#12 → v = s.ops.fb2) ∧ (a = 0x03C#12 → v = 0#32) ∧ (a = 0x040#12 → v = s.result) ∧
    (a = 0x044#12 → v = s.ops.posidx) ∧ (a = 0x048#12 → v = s.ops.posms) ∧ (a = 0x04C#12 → v = s.ops.cntop) ∧
    (a = 0x050#12 → v.toNat = s.tb.cnt.toNat) ∧ (a = 0x054#12 → v = s.stat.okcnt) ∧
    (a = 0x058#12 → v = s.stat.ferrcnt) ∧ (a = 0x05C#12 → v = s.stat.rxtime) ∧
    (a = 0x060#12 → v = s.stat.rxflags) ∧ (a = 0x064#12 → v = s.se.gap) ∧
    (0x64 < a.toNat ∨ a.toNat % 4 ≠ 0 → v = 0#32)

/-- Every bit of the view `STATUS` (10 R25). -/
def Obligations.StatusShowsEveryFlag : Prop :=
  ∀ (s : State) (v : Reg32), v = readOffset s 0x004#12 →
    (v.extractLsb' 0 2).toNat =
      (match s.se.lock with | .unlocked => 0 | .acquiring => 1 | .locked => 2 | .lost => 3) ∧
    v.getLsbD 2 = s.run.runEmit ∧ v.getLsbD 3 = s.run.runRecv ∧
    v.getLsbD 4 = (s.run.runEmit && !s.run.ctrl.getLsbD 0) ∧
    v.getLsbD 5 = s.tb.tbvalid ∧ v.getLsbD 6 = s.mod.mact ∧ v.getLsbD 7 = false ∧
    v.getLsbD 8 = s.err.cfgerr ∧ v.getLsbD 9 = s.err.deverr ∧ v.extractLsb' 10 2 = 0#2 ∧
    v.extractLsb' 12 2 = s.err.lastferr ∧ v.extractLsb' 14 18 = 0#18

/-- `REG.WR`, in the order of 46 R321: an offset that is no register, a read-only register, a locked register
while a path runs: nothing; `CTRL` and `CMD`: their rules; any other register holds the data with its reserved
bits 0, every other offset reads as before, and nothing outside the register written changes. -/
def Obligations.RegisterWriteFollowsItsOrder : Prop :=
  ∀ (s : State) (a : Offset) (d : Reg32),
    (0x64 < a.toNat ∨ a.toNat % 4 ≠ 0 → exec (.regWr a d) s = .next s) ∧
    (a = 0x004#12 ∨ a = 0x040#12 ∨ (0x50 ≤ a.toNat ∧ a.toNat ≤ 0x64) → exec (.regWr a d) s = .next s) ∧
    (a = 0x000#12 → exec (.regWr a d) s = exec (.regWrCtrl (d.getLsbD 0) (d.getLsbD 1)) s) ∧
    (a = 0x03C#12 → exec (.regWr a d) s = exec (.regWrCmd (d.setWidth 8)) s) ∧
    (0x08 ≤ a.toNat ∧ a.toNat ≤ 0x24 ∧ (s.run.runEmit = true ∨ s.run.runRecv = true) →
      exec (.regWr a d) s = .next s) ∧
    (a.toNat % 4 = 0 →
      (0x08 ≤ a.toNat ∧ a.toNat ≤ 0x24 ∧ s.run.runEmit = false ∧ s.run.runRecv = false) ∨
        (0x28 ≤ a.toNat ∧ a.toNat ≤ 0x38) ∨ (0x44 ≤ a.toNat ∧ a.toNat ≤ 0x4C) →
      ∃ g o, exec (.regWr a d) s = .next { s with creg := g, ops := o } ∧
        readOffset { s with creg := g, ops := o } a =
          (d &&& if a = 0x008#12 then 0x1F#32 else if a = 0x024#12 ∨ a = 0x038#12 then 0xFFFF#32
            else if a = 0x02C#12 then 0x3FFFF#32 else 0xFFFFFFFF#32) ∧
        ∀ b : Offset, b ≠ a → readOffset { s with creg := g, ops := o } b = readOffset s b)

/-- While a path runs no event but a reset changes a configuration register (10 R47). -/
def Obligations.RunningPathLocksTheConfiguration : Prop :=
  ∀ s t : State, step s = .next t → s.running = true → t.creg ≠ s.creg →
    ∃ w rest, s.events = w :: rest ∧ (decodeStim w = .rst ∨ decodeStim w = .regWrCmd 0x0A#8)

/-! ## Host commands: outcome and errors -/

/-- `NOP` clears `RESULT`; `CLRERR` clears `RESULT` and the three sticky fields; both leave every other offset
and all other state alone (46 R323, R324). -/
def Obligations.NopAndClrerrClearOnlyTheirFields : Prop :=
  ∀ s : State,
    (∃ t, exec .nop s = .next t ∧ t = { s with result := 0#32 } ∧
      ∀ a : Offset, readOffset t a = if a = 0x040#12 then 0#32 else readOffset s a) ∧
    (∃ t, exec .clrerr s = .next t ∧ t = { s with result := 0#32, err := ⟨false, false, 0#2⟩ } ∧
      ∀ a : Offset, readOffset t a =
        if a = 0x040#12 then 0#32 else if a = 0x004#12 then readOffset s a &&& 0xFFFFCCFF#32 else readOffset s a)

/-- Every reserved opcode sets `RESULT` to `CMDERR` alone and changes nothing else, by its row and through the
command register (46 R326, 30 R121). -/
def Obligations.ReservedOpcodesOnlySetCmderr : Prop :=
  (∀ (op : BitVec 8) (s : State), 0x0B ≤ op.toNat →
    exec (.regWrCmd op) s = .next { s with result := 0x00000020#32 } ∧
    exec (decodeOpcode op) s = .next { s with result := 0x00000020#32 }) ∧
  (∀ s : State, exec .reservedCmd0B s = .next { s with result := 0x00000020#32 }) ∧
  (∀ (lo : BitVec 2) (s : State), exec (.reservedCmd0C lo) s = .next { s with result := 0x00000020#32 }) ∧
  (∀ (lo : BitVec 4) (s : State), exec (.reservedCmd10 lo) s = .next { s with result := 0x00000020#32 }) ∧
  (∀ (lo : BitVec 5) (s : State), exec (.reservedCmd20 lo) s = .next { s with result := 0x00000020#32 }) ∧
  (∀ (lo : BitVec 6) (s : State), exec (.reservedCmd40 lo) s = .next { s with result := 0x00000020#32 }) ∧
  (∀ (lo : BitVec 7) (s : State), exec (.reservedCmd80 lo) s = .next { s with result := 0x00000020#32 })

/-- A command other than `SRESET` never disturbs a path: it writes the operand registers, `RESULT`, and for
`CLRERR` the sticky fields, and nothing else (46 R322). -/
def Obligations.CommandsNeverDisturbAPath : Prop :=
  ∀ (op : BitVec 8) (s : State), op ≠ 0x0A#8 →
    ∃ o r e, exec (.regWrCmd op) s = .next { s with ops := o, result := r, err := e } ∧ (op ≠ 0x09#8 → e = s.err)

/-- The stream events and the operations they fire never touch the operand registers, `RESULT` or the
configuration (10 R21, 46 R322). -/
def Obligations.StreamingNeverTouchesTheOperands : Prop :=
  ∀ (i : Instr) (s t : State),
    ((∃ x, i = .smpIn x) ∨ i = .smpOut ∨ (∃ v, i = .posIdx v) ∨ (∃ v, i = .posMs v) ∨ i = .devErr ∨
      i = .modCell ∨ i = .emitNext ∨ i = .rxTickgen ∨ (∃ x, i = .demodEdge x) ∨ (∃ d, i = .demodCls d) ∨
      (∃ b, i = .fbdShift b) ∨ i = .rxDec ∨ (∃ f, i = .seFrame f) ∨ (∃ c, i = .seEval c) ∨
      (∃ e, i = .seFerr e) ∨ i = .seTick) →
    exec i s = .next t → t.ops = s.ops ∧ t.result = s.result ∧ t.creg = s.creg

/-! ## The frame codec -/

/-- `ENC`: a label in range is packed field by field as 41 R144 says, and `RESULT` is 0; otherwise `RANGEERR`
alone is written (41 R147). -/
def Obligations.EncPacksTheFrame : Prop :=
  ∀ (s : State) (hh mm ss ff : Nat),
    hh = (s.ops.fldTime.extractLsb' 24 8).toNat → mm = (s.ops.fldTime.extractLsb' 16 8).toNat →
    ss = (s.ops.fldTime.extractLsb' 8 8).toNat → ff = (s.ops.fldTime.extractLsb' 0 8).toNat →
    (hh ≤ 23 ∧ mm ≤ 59 ∧ ss ≤ 59 ∧ ff < rateFn s.rate →
      ∃ w0 w1 w2, exec .enc s =
          .next { s with ops := { s.ops with fb0 := w0, fb1 := w1, fb2 := w2 }, result := 0#32 } ∧
        (w0.extractLsb' 0 4).toNat = ff % 10 ∧ w0.extractLsb' 4 4 = s.ops.fldFlags.extractLsb' 0 4 ∧
        (w0.extractLsb' 8 2).toNat = ff / 10 ∧ w0.getLsbD 10 = s.ops.fldFlags.getLsbD 16 ∧
        w0.getLsbD 11 = s.ops.fldFlags.getLsbD 17 ∧ w0.extractLsb' 12 4 = s.ops.fldFlags.extractLsb' 4 4 ∧
        (w0.extractLsb' 16 4).toNat = ss % 10 ∧ w0.extractLsb' 20 4 = s.ops.fldFlags.extractLsb' 8 4 ∧
        (w0.extractLsb' 24 3).toNat = ss / 10 ∧ w0.getLsbD 27 = false ∧
        w0.extractLsb' 28 4 = s.ops.fldFlags.extractLsb' 12 4 ∧
        (w1.extractLsb' 0 4).toNat = mm % 10 ∧ w1.extractLsb' 4 4 = 0#4 ∧ (w1.extractLsb' 8 3).toNat = mm / 10 ∧
        w1.extractLsb' 11 5 = 0#5 ∧ (w1.extractLsb' 16 4).toNat = hh % 10 ∧ w1.extractLsb' 20 4 = 0#4 ∧
        (w1.extractLsb' 24 2).toNat = hh / 10 ∧ w1.extractLsb' 26 6 = 0#6 ∧ w2 = 0x0000BFFC#32) ∧
    (¬(hh ≤ 23 ∧ mm ≤ 59 ∧ ss ≤ 59 ∧ ff < rateFn s.rate) →
      exec .enc s = .next { s with result := 0x00000010#32 })

/-- `DEC`: the three checks in the order of 41 R146, each reported in `RESULT` with the operands unchanged; a
frame that passes writes `FLD_TIME` and `FLD_FLAGS` (41 R148). -/
def Obligations.DecReportsTheFrameOrTheFirstError : Prop :=
  ∀ (s : State) (fu ft su st mu mt hu ht : Nat),
    fu = (s.ops.fb0.extractLsb' 0 4).toNat → ft = (s.ops.fb0.extractLsb' 8 2).toNat →
    su = (s.ops.fb0.extractLsb' 16 4).toNat → st = (s.ops.fb0.extractLsb' 24 3).toNat →
    mu = (s.ops.fb1.extractLsb' 0 4).toNat → mt = (s.ops.fb1.extractLsb' 8 3).toNat →
    hu = (s.ops.fb1.extractLsb' 16 4).toNat → ht = (s.ops.fb1.extractLsb' 24 2).toNat →
    if s.ops.fb2.extractLsb' 0 16 ≠ 0xBFFC#16 then exec .dec s = .next { s with result := 0x00000001#32 }
    else if 9 < fu ∨ 9 < su ∨ 9 < mu ∨ 9 < hu ∨ 5 < st ∨ 5 < mt ∨ 23 < 10 * ht + hu then
      exec .dec s = .next { s with result := 0x00000102#32 }
    else if rateFn s.rate ≤ 10 * ft + fu then exec .dec s = .next { s with result := 0x00000103#32 }
    else ∃ time flags,
      exec .dec s =
        .next { s with ops := { s.ops with fldTime := time, fldFlags := flags }, result := 0x00000100#32 } ∧
      (time.extractLsb' 24 8).toNat = 10 * ht + hu ∧ (time.extractLsb' 16 8).toNat = 10 * mt + mu ∧
      (time.extractLsb' 8 8).toNat = 10 * st + su ∧ (time.extractLsb' 0 8).toNat = 10 * ft + fu ∧
      flags.extractLsb' 0 4 = s.ops.fb0.extractLsb' 4 4 ∧ flags.extractLsb' 4 4 = s.ops.fb0.extractLsb' 12 4 ∧
      flags.extractLsb' 8 4 = s.ops.fb0.extractLsb' 20 4 ∧ flags.extractLsb' 12 4 = s.ops.fb0.extractLsb' 28 4 ∧
      flags.getLsbD 16 = s.ops.fb0.getLsbD 10 ∧ flags.getLsbD 17 = s.ops.fb0.getLsbD 11 ∧
      flags.extractLsb' 18 14 = 0#14

/-- `SYNCCHK` looks at `FB2[15:0]` alone (41 R149). -/
def Obligations.SyncchkComparesTheSyncWord : Prop :=
  ∀ s : State,
    (s.ops.fb2.extractLsb' 0 16 = 0xBFFC#16 → exec .syncchk s = .next { s with result := 0x00000100#32 }) ∧
    (s.ops.fb2.extractLsb' 0 16 ≠ 0xBFFC#16 → exec .syncchk s = .next { s with result := 0#32 })

/-- The round-trip law of 41 R153: decode of encode gives the ten values back, and encode of decode clears
exactly the bits the frame does not carry. -/
def Obligations.FrameRoundTrip : Prop :=
  (∀ (r : Rate) (l : Label) (g : FlagFields), inrange l (rateFn r) = true →
    ∃ f, decodeFrame (encodeFrame l g) (rateFn r) = .ok f ∧ frameLabel f = l ∧ frameFlags f = g) ∧
  (∀ (r : Rate) (b : FrameBits) (f : LtcFrame), decodeFrame b (rateFn r) = .ok f →
    encodeFrame (frameLabel f) (frameFlags f) = b &&& carriedBits)

/-- The bits a frame does not carry are encoded 0 and play no part in decoding (30 R105, R106). -/
def Obligations.UnassignedFrameBitsAreIgnored : Prop :=
  (∀ (l : Label) (g : FlagFields), encodeFrame l g &&& ~~~carriedBits = 0#80) ∧
  (∀ (b b' : FrameBits) (fn : Nat), b &&& carriedBits = b' &&& carriedBits →
    decodeFrame b fn = decodeFrame b' fn)

/-! ## The timebase -/

/-- The count is the position of a label in the sequence of valid labels: it keeps their order, and is a
bijection from them onto the numbers below `DAY`, `cnt2lbl` its inverse (44 R231, R235). -/
def Obligations.CountIsThePositionAmongValidLabels : Prop :=
  ∀ r : Rate,
    (∀ l, ValidLabel r l → labelCount r l < rateDay r ∧ countLabel r (labelCount r l) = l) ∧
    (∀ c, c < rateDay r → ValidLabel r (countLabel r c) ∧ labelCount r (countLabel r c) = c) ∧
    (∀ l l', ValidLabel r l → ValidLabel r l' → l.before l' → labelCount r l < labelCount r l')

/-- The successor of a valid label by count is the counter rule of 44 R237. -/
def Obligations.SuccessorIsTheCounterRule : Prop :=
  ∀ (r : Rate) (l : Label), ValidLabel r l →
    countLabel r ((labelCount r l + 1) % rateDay r) = counterNext r l ∧ ValidLabel r (counterNext r l)

/-- A dropped label has the count of the valid label two places before `hh:mm:00:(f+2)`, one less than that of
its predecessor `…:59:29` when `f` is 0 (44 R236). -/
def Obligations.DroppedLabelsAlias : Prop :=
  ∀ l : Label, l.hh ≤ 23 → l.mm ≤ 59 → DroppedLabel .fps2997 l →
    labelCount .fps2997 l + 2 = labelCount .fps2997 { l with ff := l.ff + 2 } ∧
    ValidLabel .fps2997 { l with ff := l.ff + 2 } ∧
    labelCount .fps2997 l = labelCount .fps2997 { l with mm := l.mm - 1, ss := 59, ff := 28 + l.ff } ∧
    ValidLabel .fps2997 { l with mm := l.mm - 1, ss := 59, ff := 28 + l.ff }

/-- `LBL2CNT` (44 R240, R234): the count of the label, by the formula, or `RANGEERR` alone. -/
def Obligations.Lbl2cntWritesTheCount : Prop :=
  ∀ (s : State) (hh mm ss ff : Nat),
    hh = (s.ops.fldTime.extractLsb' 24 8).toNat → mm = (s.ops.fldTime.extractLsb' 16 8).toNat →
    ss = (s.ops.fldTime.extractLsb' 8 8).toNat → ff = (s.ops.fldTime.extractLsb' 0 8).toNat →
    (hh ≤ 23 ∧ mm ≤ 59 ∧ ss ≤ 59 ∧ ff < rateFn s.rate →
      ∃ c : Reg32, exec .lbl2cnt s = .next { s with ops := { s.ops with cntop := c }, result := 0#32 } ∧
        c.toNat + (if s.rate = .fps2997 then 2 * (60 * hh + mm - (60 * hh + mm) / 10) else 0) =
          ((hh * 60 + mm) * 60 + ss) * rateFn s.rate + ff) ∧
    (¬(hh ≤ 23 ∧ mm ≤ 59 ∧ ss ≤ 59 ∧ ff < rateFn s.rate) →
      exec .lbl2cnt s = .next { s with result := 0x00000010#32 })

/-- `CNT2LBL` (44 R241, R235): the valid label whose count is `CNTOP`, or `RANGEERR` alone. -/
def Obligations.Cnt2lblWritesTheValidLabel : Prop :=
  ∀ s : State,
    (s.ops.cntop.toNat < rateDay s.rate →
      ∃ v, exec .cnt2lbl s = .next { s with ops := { s.ops with fldTime := v }, result := 0#32 } ∧
        ValidLabel s.rate (unpackTime v) ∧ labelCount s.rate (unpackTime v) = s.ops.cntop.toNat) ∧
    (rateDay s.rate ≤ s.ops.cntop.toNat → exec .cnt2lbl s = .next { s with result := 0x00000010#32 })

/-- `INCLBL` (44 R242): in range, the valid label of the next count modulo `DAY`, which for a valid label is
the counter rule of 44 R237; out of range, `RANGEERR` alone. -/
def Obligations.InclblWritesTheSuccessor : Prop :=
  ∀ s : State,
    (inrange (unpackTime s.ops.fldTime) (rateFn s.rate) = true →
      ∃ v, exec .inclbl s = .next { s with ops := { s.ops with fldTime := v }, result := 0#32 } ∧
        ValidLabel s.rate (unpackTime v) ∧
        labelCount s.rate (unpackTime v) =
          (labelCount s.rate (unpackTime s.ops.fldTime) + 1) % rateDay s.rate ∧
        (ValidLabel s.rate (unpackTime s.ops.fldTime) →
          unpackTime v = counterNext s.rate (unpackTime s.ops.fldTime))) ∧
    (inrange (unpackTime s.ops.fldTime) (rateFn s.rate) = false →
      exec .inclbl s = .next { s with result := 0x00000010#32 })

/-- `cnt2pos` gives the entry and the earliest millisecond at which `pos2cnt` gives the count back (44 R239). -/
def Obligations.PositionOfACountIsItsEarliestMillisecond : Prop :=
  ∀ (r : Rate) (hidx : Bool) (c : Nat), c < rateDay r →
    (countPos r hidx c).1 = (if hidx then c / rateHour r else 0) ∧
    posCount r hidx (countPos r hidx c).1 (countPos r hidx c).2 = c ∧
    (∀ ms, ms < (countPos r hidx c).2 → posCount r hidx (countPos r hidx c).1 ms ≠ c) ∧
    (countPos r hidx c).2 ≤ 86400000

/-- `TOFRM` (44 R243, R238): the valid label of the position's count, the drop-frame flag exactly at 29.97, the
colour-frame flag and the user nibbles from the configuration. -/
def Obligations.TofrmBuildsTheFrame : Prop :=
  ∀ (s : State) (n : Nat),
    n = (s.ops.posms.toNat * rateNum s.rate) / (1000 * rateDen s.rate) →
    ∃ v g, exec .tofrm s = .next { s with ops := { s.ops with fldTime := v, fldFlags := g }, result := 0#32 } ∧
      ValidLabel s.rate (unpackTime v) ∧
      labelCount s.rate (unpackTime v) =
        (if s.creg.cfg.getLsbD 2 then (s.ops.posidx.toNat % 24) * rateHour s.rate + n % rateHour s.rate
          else n % rateDay s.rate) ∧
      g.extractLsb' 0 16 = s.creg.ubits.extractLsb' 0 16 ∧ g.getLsbD 16 = (s.creg.cfg.extractLsb' 0 2 == 2#2) ∧
      g.getLsbD 17 = s.creg.cfg.getLsbD 4 ∧ g.extractLsb' 18 14 = 0#14

/-- `TOPOS` (44 R244): the position of the label's count, or `RANGEERR` alone. -/
def Obligations.ToposWritesThePosition : Prop :=
  ∀ (s : State) (c : Nat), c = labelCount s.rate (unpackTime s.ops.fldTime) →
    (inrange (unpackTime s.ops.fldTime) (rateFn s.rate) = true →
      ∃ i m : Reg32, exec .topos s = .next { s with ops := { s.ops with posidx := i, posms := m }, result := 0#32 } ∧
        i.toNat = (if s.creg.cfg.getLsbD 2 then c / rateHour s.rate else 0) ∧
        m.toNat * rateNum s.rate <
          (if s.creg.cfg.getLsbD 2 then c % rateHour s.rate else c) * 1000 * rateDen s.rate + rateNum s.rate ∧
        (if s.creg.cfg.getLsbD 2 then c % rateHour s.rate else c) * 1000 * rateDen s.rate ≤
          m.toNat * rateNum s.rate) ∧
    (inrange (unpackTime s.ops.fldTime) (rateFn s.rate) = false →
      exec .topos s = .next { s with result := 0x00000010#32 })

/-- `TOFRM` after `TOPOS` restores a valid label exactly (44 R244). -/
def Obligations.ToposThenTofrmRestoresTheLabel : Prop :=
  ∀ s : State, ValidLabel s.rate (unpackTime s.ops.fldTime) →
    ∃ t u, exec .topos s = .next t ∧ exec .tofrm t = .next u ∧ u.ops.fldTime = s.ops.fldTime ∧ u.result = 0#32

/-! ## Enable, disable, device error -/

/-- `START.EMIT`, `EMIT.STOP`, `START.RECV`, `STOP.RECV`: the run flag, the streaming state of the path at its
reset values, and, for `START.RECV` alone, the statistics cleared (46 R332 to R335). -/
def Obligations.StartAndStopInitialiseTheirPath : Prop :=
  ∀ s : State,
    exec .startEmit s = .next { s with
      run := { s.run with runEmit := true }, mod := ⟨false, 0, 0, 0, 0, 0, false⟩, tb := ⟨0, false, s.tb.rxtacc⟩ } ∧
    exec .emitStop s = .next { s with
      run := { s.run with runEmit := false }, mod := ⟨false, 0, 0, 0, 0, 0, false⟩, tb := ⟨0, false, s.tb.rxtacc⟩ } ∧
    exec .startRecv s = .next { s with
      run := { s.run with runRecv := true }, se := ⟨.unlocked, 0, false, 0⟩, tb := ⟨0, false, 0⟩,
      dem := ⟨0, 0, false, 0, false, false⟩, fbd := ⟨0, 0⟩, stat := ⟨0, 0, 0, 0⟩ } ∧
    exec .stopRecv s = .next { s with
      run := { s.run with runRecv := false }, se := ⟨.unlocked, 0, false, 0⟩, tb := ⟨0, false, 0⟩,
      dem := ⟨0, 0, false, 0, false, false⟩, fbd := ⟨0, 0⟩ }

/-- `REG.WR CTRL` in a legal run state (46 R330, R331, R337): which enable bits are granted, that a bit asked for
and not granted sets `CFGERR`, what runs afterwards, and what the paths' state becomes. -/
def Obligations.ControlWriteGrantsAndRefuses : Prop :=
  ∀ (s : State) (eo ei ok : Bool), RunStateLegal s →
    ok = decide (640 * rateNum s.rate ≤ s.creg.srate.toNat * rateDen s.rate) →
    ∃ t, exec (.regWrCtrl eo ei) s = .next t ∧
      t.enOut = (eo && !ei && (s.run.runEmit || (!s.run.runRecv && ok))) ∧
      t.enIn = (ei && !eo && (s.run.runRecv || (!s.run.runEmit && ok))) ∧
      t.run.ctrl.extractLsb' 2 30 = 0#30 ∧
      t.err = { s.err with cfgerr := s.err.cfgerr || (eo != t.enOut) || (ei != t.enIn) } ∧
      t.run.runEmit = (t.enOut || (s.run.runEmit && s.mod.mact)) ∧ t.run.runRecv = t.enIn ∧
      t.mod = (if t.run.runEmit = s.run.runEmit then s.mod else ⟨false, 0, 0, 0, 0, 0, false⟩) ∧
      (t.run.runEmit = s.run.runEmit ∧ t.run.runRecv = s.run.runRecv → t.tb = s.tb) ∧
      (t.run.runEmit ≠ s.run.runEmit ∨ t.run.runRecv ≠ s.run.runRecv →
        t.tb.cnt = 0 ∧ t.tb.tbvalid = false) ∧
      (if t.run.runRecv = s.run.runRecv then t.se = s.se ∧ t.dem = s.dem ∧ t.fbd = s.fbd ∧ t.tb.rxtacc = s.tb.rxtacc
        else t.se = ⟨.unlocked, 0, false, 0⟩ ∧ t.dem = ⟨0, 0, false, 0, false, false⟩ ∧ t.fbd = ⟨0, 0⟩ ∧
          t.tb.rxtacc = 0) ∧
      t.stat = (if t.run.runRecv = true ∧ s.run.runRecv = false then ⟨0, 0, 0, 0⟩ else s.stat) ∧
      t.creg = s.creg ∧ t.ops = s.ops ∧ t.result = s.result ∧ t.pos = s.pos ∧ t.events = s.events ∧
      t.ret = s.ret ∧ t.records = s.records

/-- A frame that drains is sent as it would have been: with a frame in progress, the sample and the new state
of `SMP.OUT` do not depend on `CTRL` (46 R334). -/
def Obligations.DrainSendsTheFrameUnchanged : Prop :=
  ∀ (s : State) (c : Reg32), s.run.runEmit = true → s.mod.mact = true →
    ∃ m x, exec .smpOut s = .next { s with mod := m, ret := some (.sample x) } ∧
      exec .smpOut { s with run := { s.run with ctrl := c } } =
        .next { s with run := { s.run with ctrl := c }, mod := m, ret := some (.sample x) }

/-- `DEV.ERR` in any state: `DEVERR` set, both enable bits and run flags off, the streaming state of the paths
that ran at its reset values, everything else kept (46 R336, 60 R367). -/
def Obligations.DeviceErrorStopsBothPaths : Prop :=
  ∀ s : State, ∃ t, exec .devErr s = .next t ∧
    t.run = ⟨0, false, false⟩ ∧ t.err = { s.err with deverr := true } ∧
    (if s.run.runEmit = true then t.mod = ⟨false, 0, 0, 0, 0, 0, false⟩ else t.mod = s.mod) ∧
    (if s.run.runRecv = true then
      t.se = ⟨.unlocked, 0, false, 0⟩ ∧ t.dem = ⟨0, 0, false, 0, false, false⟩ ∧ t.fbd = ⟨0, 0⟩
     else t.se = s.se ∧ t.dem = s.dem ∧ t.fbd = s.fbd) ∧
    (s.run.runEmit = false → s.run.runRecv = false → t.tb = s.tb) ∧
    (s.run.runEmit = true ∨ s.run.runRecv = true → t.tb.cnt = 0 ∧ t.tb.tbvalid = false) ∧
    t.tb.rxtacc = (if s.run.runRecv = true then 0 else s.tb.rxtacc) ∧
    t.stat = s.stat ∧ t.creg = s.creg ∧ t.ops = s.ops ∧ t.result = s.result ∧ t.pos = s.pos ∧
    t.events = s.events ∧ t.ret = s.ret ∧ t.records = s.records

/-! ## Emit mode -/

/-- `POS.IDX` and `POS.MS` write their latch and nothing else, in every state, and neither undoes the other
(45 R270, R271). -/
def Obligations.PositionEventsLoadTheirLatch : Prop :=
  ∀ (s : State) (v w : Reg32), ∃ t u,
    exec (.posIdx v) s = .next t ∧ t = { s with pos := ⟨v, s.pos.ms⟩ } ∧
    exec (.posMs w) t = .next u ∧ u = { s with pos := ⟨v, w⟩ } ∧
    exec (.posMs w) s = .next { s with pos := ⟨s.pos.idx, w⟩ }

/-- `MOD.CELL` (42 R171): length and remainder divide `MACC + SRATE · DEN` by `80 · NUM`, and the level
changes. -/
def Obligations.CellDividesTheAccumulatedTime : Prop :=
  ∀ s : State, ∃ (n : Reg32) (a : BitVec 18),
    exec .modCell s = .next { s with mod := { s.mod with mlen := n, macc := a, mlvl := !s.mod.mlvl } } ∧
    n.toNat * (80 * rateNum s.rate) + a.toNat = s.mod.macc.toNat + s.creg.srate.toNat * rateDen s.rate ∧
    a.toNat < 80 * rateNum s.rate

/-- The cell-length law (42 R174): with the remainder cleared, the first `k` cells take exactly `(k·A) div B`
samples, for every `k`. -/
def Obligations.CellLengthsNeverDrift : Prop :=
  ∀ (s : State) (k : Nat), s.mod.macc = 0 →
    ((List.range k).map fun i => (modCell^[i + 1] s).mod.mlen.toNat).sum =
      k * (s.creg.srate.toNat * rateDen s.rate) / (80 * rateNum s.rate)

/-- While no frame is being emitted `SMP.OUT` returns 0: with the path off nothing changes (42 R176); at a frame
boundary with `EN_OUT` = 0 the path stops (42 R170, 46 R334). -/
def Obligations.IdleOutputIsZero : Prop :=
  ∀ s : State,
    (s.run.runEmit = false → exec .smpOut s = .next { s with ret := some (.sample 0#16) }) ∧
    (s.run.runEmit = true → s.mod.mact = false → s.enOut = false →
      ∃ t, exec .emitStop s = .next t ∧ t.run.runEmit = false ∧
        exec .smpOut s = .next { t with ret := some (.sample 0#16) })

/-- At a frame boundary of a running emit path `SMP.OUT` first loads the next frame, and then produces that
frame's first sample (42 R170). -/
def Obligations.BoundarySampleLoadsTheNextFrame : Prop :=
  ∀ s : State, s.run.runEmit = true → s.mod.mact = false → s.enOut = true →
    ∃ u t, exec .emitNext s = .next u ∧ u.mod.mact = true ∧ u.mod.mbit = 0 ∧ u.mod.mpos = 0 ∧
      exec .smpOut s = .next t ∧ exec .smpOut u = .next t

/-- With a frame in progress `SMP.OUT` returns `+AMPL` or `−AMPL` by the level; the level changes at the first
sample of a cell and, in a cell that carries a 1, at sample `MLEN div 2`; the sample, cell and frame indices
move on (42 R170, R172, R173, R175). -/
def Obligations.SampleFollowsTheBiphaseLaw : Prop :=
  ∀ s : State, s.run.runEmit = true → s.mod.mact = true →
    ∃ (m c : Modulator) (x : Sample),
      exec .smpOut s = .next { s with mod := m, ret := some (.sample x) } ∧
      (s.mod.mpos ≠ 0 → c = s.mod) ∧ (s.mod.mpos = 0 → exec .modCell s = .next { s with mod := c }) ∧
      m.mlvl = (c.mlvl ^^ (s.mod.mbits.getLsbD s.mod.mbit.toNat && decide (s.mod.mpos.toNat = c.mlen.toNat / 2))) ∧
      x.toInt = (if m.mlvl = true then (Config.ampl : Int) else -(Config.ampl : Int)) ∧
      m.mbits = s.mod.mbits ∧ m.mlen = c.mlen ∧ m.macc = c.macc ∧
      (s.mod.mpos + 1 ≠ c.mlen → m.mpos = s.mod.mpos + 1 ∧ m.mbit = s.mod.mbit ∧ m.mact = true) ∧
      (s.mod.mpos + 1 = c.mlen → s.mod.mbit ≠ 79#7 → m.mpos = 0 ∧ m.mbit = s.mod.mbit + 1 ∧ m.mact = true) ∧
      (s.mod.mpos + 1 = c.mlen → s.mod.mbit = 79#7 → m.mpos = 0 ∧ m.mbit = 0 ∧ m.mact = false)

/-- `EMIT.NEXT` (45 R272): the count is the position's on the first frame and after a jump of more than
`EMITTOL`, and the free-running successor otherwise; the frame loaded decodes to the valid label of that count
with the configured flags (45 R274). -/
def Obligations.EmitNextFreeRunsOrJams : Prop :=
  ∀ (s : State) (p e : Nat),
    p = posCount s.rate s.hidx s.pos.idx.toNat s.pos.ms.toNat → e = (s.tb.cnt.toNat + 1) % rateDay s.rate →
    ∃ (c : BitVec 22) (b : FrameBits) (f : LtcFrame),
      exec .emitNext s = .next { s with
        tb := { s.tb with cnt := c, tbvalid := true }
        mod := { s.mod with mbits := b, mbit := 0, mpos := 0, mact := true } } ∧
      (s.tb.tbvalid = false → c.toNat = p) ∧
      (s.tb.tbvalid = true → ((p : Int) - e).natAbs ≤ s.creg.emittol.toNat → c.toNat = e) ∧
      (s.tb.tbvalid = true → s.creg.emittol.toNat < ((p : Int) - e).natAbs → c.toNat = p) ∧
      decodeFrame b (rateFn s.rate) = .ok f ∧ ValidLabel s.rate (frameLabel f) ∧
      labelCount s.rate (frameLabel f) = c.toNat ∧ f.dfl = (s.creg.cfg.extractLsb' 0 2 == 2#2) ∧
      f.cfl = s.creg.cfg.getLsbD 4 ∧ f.ub0 = s.creg.ubits.extractLsb' 0 4 ∧
      f.ub1 = s.creg.ubits.extractLsb' 4 4 ∧ f.ub2 = s.creg.ubits.extractLsb' 8 4 ∧
      f.ub3 = s.creg.ubits.extractLsb' 12 4 ∧ b &&& ~~~carriedBits = 0#80

/-! ## Demodulator and frame-boundary detector -/

/-- `SMP.IN` (43 R190): ignored when not receiving; otherwise the local tick, the edge detector, the saturating
timer, and at an edge after the first the classifier, in that order. -/
def Obligations.SampleInputFollowsItsOrder : Prop :=
  (∀ (s : State) (x : Sample), s.run.runRecv = false → exec (.smpIn x) s = .next s) ∧
  (∀ (s : State) (x : Sample), s.run.runRecv = true →
    ∃ u v, exec .rxTickgen s = .next u ∧ exec (.demodEdge x) u = .next v ∧ v.dem.tmr = s.dem.tmr ∧
      ∃ n : Reg32, n.toNat = min (s.dem.tmr.toNat + 1) 0xFFFFFFFF ∧
        (v.dem.dlvl = u.dem.dlvl → exec (.smpIn x) s = .next { v with dem := { v.dem with tmr := n } }) ∧
        (v.dem.dlvl ≠ u.dem.dlvl → s.dem.tmrv = false →
          exec (.smpIn x) s = .next { v with dem := { v.dem with tmr := 0, tmrv := true } }) ∧
        (v.dem.dlvl ≠ u.dem.dlvl → s.dem.tmrv = true →
          ∃ w, exec (.demodCls n) { v with dem := { v.dem with tmr := 0 } } = .next w ∧
            exec (.smpIn x) s = .next { w with dem := { w.dem with tmrv := true } }))

/-- `RX.TICKGEN` (43 R191), with `RXTACC` in its range: below `SRATE · DEN` the accumulator alone moves; at or
above it `SRATE · DEN` is taken off and the tick fires. -/
def Obligations.TickFallsOncePerFramePeriod : Prop :=
  ∀ (s : State) (acc : Nat), s.tb.rxtacc.toNat < s.creg.srate.toNat * rateDen s.rate →
    acc = s.tb.rxtacc.toNat + rateNum s.rate →
    ∃ a : BitVec 40,
      (acc < s.creg.srate.toNat * rateDen s.rate →
        a.toNat = acc ∧ exec .rxTickgen s = .next { s with tb := { s.tb with rxtacc := a } }) ∧
      (s.creg.srate.toNat * rateDen s.rate ≤ acc →
        a.toNat = acc - s.creg.srate.toNat * rateDen s.rate ∧
        ∃ t, exec .seTick { s with tb := { s.tb with rxtacc := a } } = .next t ∧ exec .rxTickgen s = .next t)

/-- `DEMOD.EDGE` (43 R192), with the envelope ordered: the leak, the two trackers, the midpoint, the hysteresis
and the level, an edge being a change of the level; the sample lies within the new envelope. -/
def Obligations.EdgeDetectorFollowsTheEnvelope : Prop :=
  ∀ (s : State) (x : Sample) (w leak hi lo mid hys : Int), EnvelopeOrdered s →
    w = s.dem.ehi.toInt - s.dem.elo.toInt → leak = (if w = 0 then 0 else max 1 (w / 256)) →
    hi = max x.toInt (s.dem.ehi.toInt - leak) → lo = min x.toInt (s.dem.elo.toInt + leak) →
    mid = (hi + lo) / 2 → hys = (hi - lo) / 4 →
    ∃ d : Demodulator, exec (.demodEdge x) s = .next { s with dem := d } ∧
      d.ehi.toInt = hi ∧ d.elo.toInt = lo ∧ lo ≤ x.toInt ∧ x.toInt ≤ hi ∧
      (s.dem.dlvl = false → d.dlvl = decide (mid + hys < x.toInt)) ∧
      (s.dem.dlvl = true → d.dlvl = decide (¬x.toInt < mid - hys)) ∧
      d.tmr = s.dem.tmr ∧ d.tmrv = s.dem.tmrv ∧ d.half = s.dem.half

/-- On a two-level input, once settled, the first sample of a new level is an edge: a rising change for levels at
least 2 apart; a falling one for levels at least 3 apart, or at least 2 apart from a closed envelope. A fall of
exactly 2 with `EHI` at the high level is an edge only from a closed envelope: the floor of rule R192 leaves it
undetected right after one or two samples of the high level, so the bounds differ from those of 43 R199 (derived
here, log entry 15). No sample that stays at its level is an edge. -/
def Obligations.LevelChangesAreEdges : Prop :=
  ∀ (s t : State) (x : Sample) (low high : Int), EnvelopeOrdered s → exec (.demodEdge x) s = .next t →
    (s.dem.dlvl = false → s.dem.ehi.toInt ≤ high → s.dem.elo.toInt ≤ low → low + 2 ≤ high → x.toInt = high →
      t.dem.dlvl = true ∧ t.dem.ehi.toInt = high ∧ t.dem.elo.toInt ≤ high) ∧
    (s.dem.dlvl = true → low ≤ s.dem.elo.toInt → high ≤ s.dem.ehi.toInt → low + 3 ≤ high → x.toInt = low →
      t.dem.dlvl = false ∧ t.dem.elo.toInt = low) ∧
    (s.dem.dlvl = true → s.dem.elo.toInt = high → s.dem.ehi.toInt = high → low + 2 ≤ high → x.toInt = low →
      t.dem.dlvl = false ∧ t.dem.elo.toInt = low) ∧
    (s.dem.dlvl = true → low ≤ s.dem.elo.toInt → s.dem.ehi.toInt = high → low + 2 = high → x.toInt = low →
      (t.dem.dlvl = false ↔ s.dem.elo.toInt = high) ∧ t.dem.elo.toInt = low) ∧
    (s.dem.dlvl = true → s.dem.ehi.toInt ≤ x.toInt → t.dem.dlvl = true) ∧
    (s.dem.dlvl = false → x.toInt ≤ s.dem.elo.toInt → t.dem.dlvl = false)

/-- `DEMOD.CLS` with the windows of 43 R194: short after a pending half is a 1, short otherwise waits, long is a
0 and drops a pending half, anything else is no bit and drops it (43 R195). For a non-zero cell duration no
interval is both short and long. -/
def Obligations.IntervalsAreClassified : Prop :=
  ∀ (s : State) (d : Reg32) (h q : Nat), h = s.creg.srate.toNat * rateDen s.rate →
    q = 640 * rateNum s.rate * d.toNat →
    (3 * h ≤ q ∧ q ≤ 5 * h → s.dem.half = true →
      ∃ t, exec (.fbdShift true) { s with dem := { s.dem with half := false } } = .next t ∧
        exec (.demodCls d) s = .next t) ∧
    (3 * h ≤ q ∧ q ≤ 5 * h → s.dem.half = false →
      exec (.demodCls d) s = .next { s with dem := { s.dem with half := true } }) ∧
    (¬(3 * h ≤ q ∧ q ≤ 5 * h) → 7 * h ≤ q ∧ q ≤ 9 * h →
      ∃ t, exec (.fbdShift false) { s with dem := { s.dem with half := false } } = .next t ∧
        exec (.demodCls d) s = .next t) ∧
    (¬(3 * h ≤ q ∧ q ≤ 5 * h) → ¬(7 * h ≤ q ∧ q ≤ 9 * h) →
      exec (.demodCls d) s = .next { s with dem := { s.dem with half := false } }) ∧
    (0 < h → ¬((3 * h ≤ q ∧ q ≤ 5 * h) ∧ 7 * h ≤ q ∧ q ≤ 9 * h))

/-- With a validated configuration every interval the modulator produces is classified as what it is: a whole
cell is long, and both halves of a cell cut at `MLEN div 2` are short (43 R203, 42 R175). -/
def Obligations.ModulatorIntervalsAreRecognised : Prop :=
  ∀ (s t : State) (n : Nat), s.cfgOk = true → s.mod.macc.toNat < s.rateB → exec .modCell s = .next t →
    n = t.mod.mlen.toNat →
    8 ≤ n ∧ s.longInterval n = true ∧ s.shortInterval n = false ∧ s.shortInterval (n / 2) = true ∧
      s.shortInterval (n - n / 2) = true

/-- `FBD.SHIFT` (43 R197), with `RXCNT` in its range: the bit enters at 79, every other moves one place down;
the 80th bit hands the candidate to `RX.DEC`, a sync word before that only realigns. -/
def Obligations.ShiftFindsTheFrameBoundary : Prop :=
  ∀ (s : State) (b : Bool), s.fbd.rxcnt.toNat < 80 →
    ∃ r : FrameBits, (∀ i, i < 79 → r.getLsbD i = s.fbd.rxsr.getLsbD (i + 1)) ∧ r.getLsbD 79 = b ∧
      (s.fbd.rxcnt = 79#7 →
        ∃ u, exec .rxDec { s with fbd := ⟨r, 80#7⟩ } = .next u ∧ u.fbd = ⟨r, 80#7⟩ ∧
          exec (.fbdShift b) s = .next { u with fbd := ⟨r, 0#7⟩ }) ∧
      (s.fbd.rxcnt ≠ 79#7 → r.extractLsb' 64 16 = 0xBFFC#16 →
        exec (.fbdShift b) s = .next { s with fbd := ⟨r, 0#7⟩ }) ∧
      (s.fbd.rxcnt ≠ 79#7 → r.extractLsb' 64 16 ≠ 0xBFFC#16 →
        exec (.fbdShift b) s = .next { s with fbd := ⟨r, s.fbd.rxcnt + 1⟩ })

/-- `RX.DEC` hands the outcome of decoding the candidate at the configured rate to the sync engine (43 R198). -/
def Obligations.CandidateGoesToTheSyncEngine : Prop :=
  ∀ s : State,
    (∀ f, decodeFrame s.fbd.rxsr (rateFn s.rate) = .ok f →
      ∃ t, exec (.seFrame f) s = .next t ∧ exec .rxDec s = .next t ∧ t.fbd = s.fbd) ∧
    (∀ e, decodeFrame s.fbd.rxsr (rateFn s.rate) = .error e →
      ∃ t, exec (.seFerr e) s = .next t ∧ exec .rxDec s = .next t ∧ t.fbd = s.fbd)

/-- The reception of a frame word (log entry 7: the model's choice of what the row does). With no receive path
running nothing happens. Otherwise, after its 80 bits `RXSR` is the frame that was sent and the detector is
aligned, whatever came before (30 R108, 43 R197). From a detector at a frame boundary, with no sync word before the
80th bit, the whole next state is that of `RX.DEC` of the frame (43 R197). A frame that decodes is handed to
`SE.FRAME`, and so recorded, right after enable (`RXSR` = 0) and after every frame (`RXSR` ends in the sync word):
it holds no sync word before its end (43 R198). -/
def Obligations.ReceivedFrameFillsTheShiftRegister : Prop :=
  ∀ (s : State) (w : LtcWord),
    (s.run.runRecv = false → exec (.ltcFrame w) s = .next s) ∧
    (s.run.runRecv = true →
      ∃ t, exec (.ltcFrame w) s = .next t ∧ t.fbd.rxsr = ltcBits w ∧ t.fbd.rxcnt = 0 ∧
        t.run = s.run ∧ t.creg = s.creg ∧ t.ops = s.ops ∧ t.result = s.result ∧ t.mod = s.mod ∧ t.dem = s.dem ∧
        t.tb.rxtacc = s.tb.rxtacc ∧ t.err.deverr = s.err.deverr ∧ t.pos = s.pos ∧ t.events = s.events ∧
        t.ret = s.ret) ∧
    (s.run.runRecv = true → s.fbd.rxcnt = 0 →
      (∀ k, 0 < k → k < 80 →
        ((s.fbd.rxsr >>> k) ||| (ltcBits w <<< (80 - k))).extractLsb' 64 16 ≠ 0xBFFC#16) →
      ∃ u, exec .rxDec { s with fbd := ⟨ltcBits w, 80#7⟩ } = .next u ∧
        exec (.ltcFrame w) s = .next { u with fbd := ⟨ltcBits w, 0⟩ }) ∧
    (∀ f, s.run.runRecv = true → s.fbd.rxcnt = 0 →
      (s.fbd.rxsr = 0 ∨ s.fbd.rxsr.extractLsb' 64 16 = 0xBFFC#16) →
      decodeFrame (ltcBits w) (rateFn s.rate) = .ok f →
      ∃ u, exec (.seFrame f) { s with fbd := ⟨ltcBits w, 80#7⟩ } = .next u ∧
        exec (.ltcFrame w) s = .next { u with fbd := ⟨ltcBits w, 0⟩ } ∧
        u.stat.okcnt = s.stat.okcnt + 1 ∧ unpackTime u.stat.rxtime = frameLabel f ∧
        unpackFlags u.stat.rxflags = frameFlags f ∧ u.stat.ferrcnt = s.stat.ferrcnt ∧ u.err.lastferr = s.err.lastferr)

/-! ## The sync engine -/

/-- `SE.FRAME` (45 R280): the statistics, `GAP`, and the pair memory; from `Unlocked` and `Lost`, and from
`Acquiring` without a consecutive predecessor, `Acquiring` and nothing else; otherwise the drift of the frame
is judged in `Locked`. -/
def Obligations.ValidFrameDrivesTheLock : Prop :=
  ∀ (s : State) (f : LtcFrame) (c : Nat), f.wf = true → c = labelCount s.rate (frameLabel f) →
    ∃ (st : Stats) (p : BitVec 22),
      st.okcnt = s.stat.okcnt + 1 ∧ st.ferrcnt = s.stat.ferrcnt ∧ unpackTime st.rxtime = frameLabel f ∧
      unpackFlags st.rxflags = frameFlags f ∧ p.toNat = c ∧
      (s.se.lock = .unlocked ∨ s.se.lock = .lost ∨
          (s.se.lock = .acquiring ∧ ¬(s.se.prevv = true ∧ c = (s.se.prevcnt.toNat + 1) % rateDay s.rate)) →
        exec (.seFrame f) s = .next { s with stat := st, se := ⟨.acquiring, p, true, 0⟩ }) ∧
      (s.se.lock = .locked ∨
          (s.se.lock = .acquiring ∧ s.se.prevv = true ∧ c = (s.se.prevcnt.toNat + 1) % rateDay s.rate) →
        ∃ u, exec (.seEval p) { s with stat := st, se := { s.se with lock := .locked, gap := 0 } } = .next u ∧
          exec (.seFrame f) s = .next { u with se := { u.se with prevcnt := p, prevv := true } })

/-- `SE.EVAL` (45 R282, R283): the first lock always jams; beyond the extreme bound `Unlocked` and `CFGERR` with no
record; jitter ignored; `Smooth` up to the large threshold; `Jam` above it, with its notification. -/
def Obligations.DriftPolicyIsApplied : Prop :=
  ∀ (s : State) (c : BitVec 22) (a : Nat) (i m : Reg32) (jam : Bool → State),
    a = ((s.tb.cnt.toNat : Int) - c.toNat).natAbs →
    i = BitVec.ofNat 32 (countPos s.rate s.hidx c.toNat).1 → m = BitVec.ofNat 32 (countPos s.rate s.hidx c.toNat).2 →
    (∀ first, jam first = { s with
      tb := { s.tb with cnt := c, tbvalid := true }
      records := s.records ++ [.corr .jam i m] ++ (if s.fwd = true then [.notify first] else []) }) →
    if s.tb.tbvalid = false then exec (.seEval c) s = .next (jam true)
    else if s.creg.exthr ≠ 0xFFFFFFFF#32 ∧ (s.creg.exthr.toNat * rateNum s.rate) / (1000 * rateDen s.rate) < a then
      exec (.seEval c) s = .next { s with se := { s.se with lock := .unlocked }, err := { s.err with cfgerr := true } }
    else if a ≤ s.creg.smallthr.toNat then exec (.seEval c) s = .next s
    else if a ≤ (s.creg.largethr.toNat * rateNum s.rate) / (1000 * rateDen s.rate) then
      exec (.seEval c) s = .next { s with
        tb := { s.tb with cnt := c }, records := s.records ++ [.corr .smooth i m] }
    else exec (.seEval c) s = .next (jam false)

/-- `SE.FERR` (45 R285): one count, the code, and in `Acquiring` the predecessor forgotten; `LOCK`, `GAP` and all
else stay. -/
def Obligations.FrameErrorIsCountedAndDiscarded : Prop :=
  ∀ (s : State) (e : FrameError), ∃ code : BitVec 2,
    exec (.seFerr e) s = .next { s with
      stat := { s.stat with ferrcnt := s.stat.ferrcnt + 1 }
      err := { s.err with lastferr := code }
      se := { s.se with prevv := s.se.prevv && !decide (s.se.lock = .acquiring) } } ∧
    code.toNat = (match e with | .badSyncWord => 1 | .invalidBCD => 2 | .frameRateMismatch => 3)

/-- `SE.TICK` (45 R286): `CNT` modulo `DAY`, `GAP` saturating, and the two transitions of silence. -/
def Obligations.TickCountsAndTimesOut : Prop :=
  ∀ (s : State) (g f : Nat), g = min (s.se.gap.toNat + 1) 0xFFFFFFFF →
    f = (s.creg.failthr.toNat * rateNum s.rate) / (1000 * rateDen s.rate) →
    ∃ (c : BitVec 22) (e : SyncEngine), exec .seTick s = .next { s with tb := { s.tb with cnt := c }, se := e } ∧
      c.toNat = (s.tb.cnt.toNat + 1) % rateDay s.rate ∧
      e.prevcnt = s.se.prevcnt ∧ e.prevv = s.se.prevv ∧
      (s.se.lock = .locked → f < g → e.lock = .lost ∧ e.gap = 0) ∧
      (s.se.lock = .lost → f < g → e.lock = .unlocked ∧ e.gap = 0) ∧
      (g ≤ f ∨ s.se.lock = .unlocked ∨ s.se.lock = .acquiring → e.lock = s.se.lock ∧ e.gap.toNat = g)

/-! ## Whole-machine rules -/

/-- The invariant holds at reset (10 R59). -/
def Obligations.ResetStateIsSound : Prop := SoundState State.reset

/-- Every step keeps the invariant: reserved bits 0, one of the four run states, every counter in its range, the
envelope ordered, stopped paths at their reset values, running paths validated (10 R50 to R58, 43 R192,
46 R337). -/
def Obligations.EveryStepKeepsTheStateSound : Prop :=
  ∀ s t : State, SoundState s → step s = .next t → SoundState t

/-- `Locked` is entered only from `Acquiring`, by a valid frame whose count is one more, modulo `DAY`, than that
of the valid frame immediately before it (45 R276, R288; 43 R202). -/
def Obligations.LockNeedsAConsecutivePair : Prop :=
  ∀ s t : State, step s = .next t → t.se.lock = .locked → s.se.lock ≠ .locked →
    s.run.runRecv = true ∧ s.se.lock = .acquiring ∧ s.se.prevv = true ∧
    t.se.prevcnt.toNat = (s.se.prevcnt.toNat + 1) % rateDay s.rate ∧ t.stat.okcnt = s.stat.okcnt + 1

/-- `Lost` is entered only from `Locked`, after more local ticks without a valid frame than the failure
threshold, and then the gap counter starts again (45 R276, R286). -/
def Obligations.LostOnlyAfterTheFailureThreshold : Prop :=
  ∀ s t : State, step s = .next t → t.se.lock = .lost → s.se.lock ≠ .lost →
    s.se.lock = .locked ∧ (s.creg.failthr.toNat * rateNum s.rate) / (1000 * rateDen s.rate) < s.se.gap.toNat + 1 ∧
    t.se.gap = 0

/-- Records are only appended, at most one correction a step with at most one notification after a `Jam`, and
only by a step of a running receive path that ends `Locked` (45 R282, R284, R291, R292). That both streams are one
list, in which a correction stands before its notification, is the model's reading (log entries 2 and 17). -/
def Obligations.CorrectionsOnlyWhileLocked : Prop :=
  ∀ s t : State, step s = .next t → t.records ≠ s.records →
    s.run.runRecv = true ∧ t.se.lock = .locked ∧ t.tb.tbvalid = true ∧
    ((∃ i m, t.records = s.records ++ [.corr .smooth i m] ∧ s.tb.tbvalid = true) ∨
      (∃ i m, s.fwd = false ∧ t.records = s.records ++ [.corr .jam i m]) ∨
      (∃ i m, s.fwd = true ∧ t.records = s.records ++ [.corr .jam i m, .notify (!s.tb.tbvalid)]))
end

