-- ==== Sys2Proof/Laws/Bits.lean ====
section
/-! SUPPORT. What the bit-field helpers do, bit by bit, and the fields of a stimulus word. -/

namespace Sys2Proof

/-! ## Placed fields -/

/-- Bit `i` of a placed field: the field's bit `i − p`, inside the word. -/
@[simp] theorem getLsbD_bitsAt (w p : Nat) {n : Nat} (v : BitVec n) (i : Nat) :
    (bitsAt w p v).getLsbD i = (decide (i < w) && !decide (i < p) && v.getLsbD (i - p)) := by
  unfold bitsAt
  rw [BitVec.getLsbD_shiftLeft, BitVec.getLsbD_setWidth]
  rcases Nat.lt_or_ge i w with h | h
  · have : i - p < w := by omega
    simp [h, this]
  · have : ¬i < w := by omega
    simp [this]

/-- The same for an index known to lie inside the word. -/
@[simp] theorem getElem_bitsAt (w p : Nat) {n : Nat} (v : BitVec n) (i : Nat) (h : i < w) :
    (bitsAt w p v)[i] = (!decide (i < p) && v.getLsbD (i - p)) := by
  rw [← BitVec.getLsbD_eq_getElem, getLsbD_bitsAt]
  simp [h]

/-- Bit `i` of a placed one-bit field. -/
@[simp] theorem getLsbD_bitAt (w p : Nat) (b : Bool) (i : Nat) :
    (bitAt w p b).getLsbD i = (decide (i < w) && decide (i = p) && b) := by
  simp only [bitAt, getLsbD_bitsAt, BitVec.getLsbD_ofBool]
  rcases Nat.lt_trichotomy i p with h | h | h
  · have : i ≠ p := by omega
    simp [h, this]
  · simp [h]
  · have h1 : i ≠ p := by omega
    have h2 : ¬i < p := by omega
    have h3 : i - p ≠ 0 := by omega
    simp [h1, h2, h3]

/-- The same for an index known to lie inside the word. -/
@[simp] theorem getElem_bitAt (w p : Nat) (b : Bool) (i : Nat) (h : i < w) :
    (bitAt w p b)[i] = (decide (i = p) && b) := by
  rw [← BitVec.getLsbD_eq_getElem, getLsbD_bitAt]
  simp [h]

/-! ## Stimulus words -/

/-- The kind of a stimulus word built from its fields. -/
@[simp] theorem stimWord_kind (k : BitVec 4) (a : Offset) (d : Reg32) :
    (stimWord k a d).extractLsb' 44 4 = k := by
  apply BitVec.eq_of_getLsbD_eq
  intro i hi
  have h1 : d.getLsbD (44 + i) = false := BitVec.getLsbD_of_ge _ _ (by omega)
  have h2 : a.getLsbD (44 + i - 32) = false := BitVec.getLsbD_of_ge _ _ (by omega)
  have h3 : 44 + i < 48 := by omega
  have h4 : ¬ 44 + i < 44 := by omega
  simp [stimWord, h1, h2, h3, hi]

/-- The address of a stimulus word built from its fields. -/
@[simp] theorem stimWord_addr (k : BitVec 4) (a : Offset) (d : Reg32) :
    (stimWord k a d).extractLsb' 32 12 = a := by
  apply BitVec.eq_of_getLsbD_eq
  intro i hi
  have h1 : d.getLsbD (32 + i) = false := BitVec.getLsbD_of_ge _ _ (by omega)
  have h2 : 32 + i < 44 := by omega
  have h3 : 32 + i < 48 := by omega
  simp [stimWord, h2, h3, hi]

/-- The data of a stimulus word built from its fields. -/
@[simp] theorem stimWord_data (k : BitVec 4) (a : Offset) (d : Reg32) :
    (stimWord k a d).extractLsb' 0 32 = d := by
  apply BitVec.eq_of_getLsbD_eq
  intro i hi
  have h2 : i < 44 := by omega
  have h3 : i < 48 := by omega
  simp [stimWord, hi, h2, h3]

/-- The low three bits of the kind, the operand of a reserved word. -/
@[simp] theorem stimWord_kind_low (k : BitVec 4) (a : Offset) (d : Reg32) :
    (stimWord k a d).extractLsb' 44 3 = k.setWidth 3 := by
  apply BitVec.eq_of_getLsbD_eq
  intro i hi
  have h1 : d.getLsbD (44 + i) = false := BitVec.getLsbD_of_ge _ _ (by omega)
  have h2 : a.getLsbD (44 + i - 32) = false := BitVec.getLsbD_of_ge _ _ (by omega)
  have h3 : 44 + i < 48 := by omega
  simp [stimWord, h1, h2, h3, hi]

/-! ## Frames -/

/-- Every frame built from its fields ends in the sync word. -/
@[simp] theorem syncok_ltcBits (w : LtcWord) : syncok (ltcBits w) = true := by
  have : (ltcBits w).extractLsb' 64 16 = syncWord := by
    apply BitVec.eq_of_getLsbD_eq
    intro i hi
    have hz : ∀ {n : Nat} (p : Nat) (v : BitVec n), p + n ≤ 64 → v.getLsbD (64 + i - p) = false :=
      fun p v h => BitVec.getLsbD_of_ge _ _ (by omega)
    have hne : ∀ p : Nat, p < 64 → ¬ 64 + i = p := by intro p hp; omega
    have h3 : 64 + i < 80 := by omega
    simp only [BitVec.getLsbD_extractLsb', hi, decide_true, Bool.true_and, ltcBits, BitVec.getLsbD_or, getLsbD_bitsAt,
      getLsbD_bitAt, h3]
    simp [hz 4 w.ug1, hz 8 w.ft, hz 12 w.ug2, hz 16 w.su, hz 20 w.ug3, hz 24 w.st, hz 28 w.ug4, hz 32 w.mu,
      hz 36 w.ug5, hz 40 w.mt, hz 44 w.ug6, hz 48 w.hu, hz 52 w.ug7, hz 56 w.ht, hz 60 w.ug8, hne]
    have := hz 0 w.fu (by omega)
    rw [Nat.sub_zero] at this
    simp [this]
  simp [syncok, this]

end Sys2Proof
end

