-- ==== Sys2Proof/Laws/Codec.lean ====
section
/-! SUPPORT. The packed operand forms and the frame codec: what is packed is unpacked again. -/

namespace Sys2Proof

/-! ## Frames -/

/-- The fields of a frame built from fields are those fields (30 R101, R102). -/
@[simp] theorem ltcFields_ltcBits (w : LtcWord) : ltcFields (ltcBits w) = w := by
  obtain ⟨fu, ug1, ft, dfl, cfl, ug2, su, ug3, st, x27, ug4, mu, ug5, mt, x43, ug6, hu, ug7, ht, x58, x59, ug8⟩ := w
  simp only [ltcFields, LtcWord.mk.injEq]
  refine ⟨?_, ?_, ?_, ?_, ?_, ?_, ?_, ?_, ?_, ?_, ?_, ?_, ?_, ?_, ?_, ?_, ?_, ?_, ?_, ?_, ?_, ?_⟩ <;>
    first
    | (apply BitVec.eq_of_getLsbD_eq
       intro i hi
       interval_cases i <;> simp [ltcBits])
    | simp [ltcBits]

end Sys2Proof

namespace Sys2Proof.Machine

/-! ## Operand registers -/

/-- Four bytes packed into a time register are read back. -/
theorem unpackTime_packTime (l : Label) (h : l.hh < 256) (m : l.mm < 256) (s : l.ss < 256) (f : l.ff < 256) :
    unpackTime (packTime l) = l := by
  have key : ∀ a b c d : BitVec 8,
      (bitsAt 32 24 a ||| bitsAt 32 16 b ||| bitsAt 32 8 c ||| bitsAt 32 0 d).extractLsb' 24 8 = a ∧
      (bitsAt 32 24 a ||| bitsAt 32 16 b ||| bitsAt 32 8 c ||| bitsAt 32 0 d).extractLsb' 16 8 = b ∧
      (bitsAt 32 24 a ||| bitsAt 32 16 b ||| bitsAt 32 8 c ||| bitsAt 32 0 d).extractLsb' 8 8 = c ∧
      (bitsAt 32 24 a ||| bitsAt 32 16 b ||| bitsAt 32 8 c ||| bitsAt 32 0 d).extractLsb' 0 8 = d := by
    intro a b c d
    refine ⟨?_, ?_, ?_, ?_⟩ <;>
      (apply BitVec.eq_of_getLsbD_eq
       intro i hi
       interval_cases i <;> simp)
  obtain ⟨k1, k2, k3, k4⟩ := key (BitVec.ofNat 8 l.hh) (BitVec.ofNat 8 l.mm) (BitVec.ofNat 8 l.ss) (BitVec.ofNat 8 l.ff)
  unfold unpackTime packTime
  rw [k1, k2, k3, k4]
  simp only [BitVec.toNat_ofNat, Nat.mod_eq_of_lt h, Nat.mod_eq_of_lt m, Nat.mod_eq_of_lt s, Nat.mod_eq_of_lt f]

/-- The flags and nibbles packed into a flag register are read back. -/
@[simp] theorem unpackFlags_packFlags (g : FlagFields) : unpackFlags (packFlags g) = g := by
  obtain ⟨dfl, cfl, u0, u1, u2, u3⟩ := g
  simp only [unpackFlags, FlagFields.mk.injEq]
  refine ⟨?_, ?_, ?_, ?_, ?_, ?_⟩ <;>
    first
    | (apply BitVec.eq_of_getLsbD_eq
       intro i hi
       interval_cases i <;> simp [packFlags])
    | simp [packFlags]

/-- The label of a frame fits the bytes of a time register. -/
@[simp] theorem unpackTime_packTime_frameLabel (f : LtcFrame) :
    unpackTime (packTime (frameLabel f)) = frameLabel f :=
  unpackTime_packTime _ f.hh.isLt f.mm.isLt f.ss.isLt f.ff.isLt

/-! ## The codec -/

/-- The four outcomes of `decode`, in the order of 41 R146. -/
theorem decodeFrame_cases (b : FrameBits) (fn : Nat) :
    (syncok b = false ∧ decodeFrame b fn = .error .badSyncWord) ∨
    (syncok b = true ∧ badDigits (ltcFields b) = true ∧ decodeFrame b fn = .error .invalidBCD) ∨
    (syncok b = true ∧ badDigits (ltcFields b) = false ∧ fn ≤ twoDigits (ltcFields b).ft (ltcFields b).fu ∧
      decodeFrame b fn = .error .frameRateMismatch) ∨
    (syncok b = true ∧ badDigits (ltcFields b) = false ∧ twoDigits (ltcFields b).ft (ltcFields b).fu < fn ∧
      decodeFrame b fn = .ok (wordFrame (ltcFields b))) := by
  unfold decodeFrame
  dsimp only
  rcases hs : syncok b with _ | _
  · exact .inl ⟨rfl, by simp only [if_true]⟩
  · rcases hd : badDigits (ltcFields b) with _ | _
    · rcases Nat.lt_or_ge (twoDigits (ltcFields b).ft (ltcFields b).fu) fn with h | h
      · exact .inr (.inr (.inr ⟨rfl, rfl, h, by
          simp only [Bool.true_eq_false, Bool.false_eq_true, if_false, if_neg (Nat.not_le.mpr h)]⟩))
      · exact .inr (.inr (.inl ⟨rfl, rfl, h, by
          simp only [Bool.true_eq_false, Bool.false_eq_true, if_false, if_pos h]⟩))
    · exact .inr (.inl ⟨rfl, rfl, by simp only [Bool.true_eq_false, if_false, if_true]⟩)

end Sys2Proof.Machine
end

