-- ==== Sys2Proof/Laws/State.lean ====
section
/-! SUPPORT. The small lemmas of the named updates of State: what each field of each update is. -/

namespace Sys2Proof.Machine.State

/-! ### putRun -/

@[simp] theorem putRun_run (s : State) (v : RunState) : (s.putRun v).run = v := rfl
@[simp] theorem putRun_creg (s : State) (v : RunState) : (s.putRun v).creg = s.creg := rfl
@[simp] theorem putRun_ops (s : State) (v : RunState) : (s.putRun v).ops = s.ops := rfl
@[simp] theorem putRun_result (s : State) (v : RunState) : (s.putRun v).result = s.result := rfl
@[simp] theorem putRun_err (s : State) (v : RunState) : (s.putRun v).err = s.err := rfl
@[simp] theorem putRun_stat (s : State) (v : RunState) : (s.putRun v).stat = s.stat := rfl
@[simp] theorem putRun_mod (s : State) (v : RunState) : (s.putRun v).mod = s.mod := rfl
@[simp] theorem putRun_dem (s : State) (v : RunState) : (s.putRun v).dem = s.dem := rfl
@[simp] theorem putRun_fbd (s : State) (v : RunState) : (s.putRun v).fbd = s.fbd := rfl
@[simp] theorem putRun_tb (s : State) (v : RunState) : (s.putRun v).tb = s.tb := rfl
@[simp] theorem putRun_se (s : State) (v : RunState) : (s.putRun v).se = s.se := rfl
@[simp] theorem putRun_pos (s : State) (v : RunState) : (s.putRun v).pos = s.pos := rfl
@[simp] theorem putRun_events (s : State) (v : RunState) : (s.putRun v).events = s.events := rfl
@[simp] theorem putRun_ret (s : State) (v : RunState) : (s.putRun v).ret = s.ret := rfl
@[simp] theorem putRun_records (s : State) (v : RunState) : (s.putRun v).records = s.records := rfl
@[simp] theorem putRun_putRun (s : State) (v w : RunState) : (s.putRun v).putRun w = s.putRun w := rfl
@[simp] theorem putRun_self (s : State) : s.putRun s.run = s := rfl

/-! ### putCreg -/

@[simp] theorem putCreg_run (s : State) (v : ConfigRegs) : (s.putCreg v).run = s.run := rfl
@[simp] theorem putCreg_creg (s : State) (v : ConfigRegs) : (s.putCreg v).creg = v := rfl
@[simp] theorem putCreg_ops (s : State) (v : ConfigRegs) : (s.putCreg v).ops = s.ops := rfl
@[simp] theorem putCreg_result (s : State) (v : ConfigRegs) : (s.putCreg v).result = s.result := rfl
@[simp] theorem putCreg_err (s : State) (v : ConfigRegs) : (s.putCreg v).err = s.err := rfl
@[simp] theorem putCreg_stat (s : State) (v : ConfigRegs) : (s.putCreg v).stat = s.stat := rfl
@[simp] theorem putCreg_mod (s : State) (v : ConfigRegs) : (s.putCreg v).mod = s.mod := rfl
@[simp] theorem putCreg_dem (s : State) (v : ConfigRegs) : (s.putCreg v).dem = s.dem := rfl
@[simp] theorem putCreg_fbd (s : State) (v : ConfigRegs) : (s.putCreg v).fbd = s.fbd := rfl
@[simp] theorem putCreg_tb (s : State) (v : ConfigRegs) : (s.putCreg v).tb = s.tb := rfl
@[simp] theorem putCreg_se (s : State) (v : ConfigRegs) : (s.putCreg v).se = s.se := rfl
@[simp] theorem putCreg_pos (s : State) (v : ConfigRegs) : (s.putCreg v).pos = s.pos := rfl
@[simp] theorem putCreg_events (s : State) (v : ConfigRegs) : (s.putCreg v).events = s.events := rfl
@[simp] theorem putCreg_ret (s : State) (v : ConfigRegs) : (s.putCreg v).ret = s.ret := rfl
@[simp] theorem putCreg_records (s : State) (v : ConfigRegs) : (s.putCreg v).records = s.records := rfl
@[simp] theorem putCreg_putCreg (s : State) (v w : ConfigRegs) : (s.putCreg v).putCreg w = s.putCreg w := rfl
@[simp] theorem putCreg_self (s : State) : s.putCreg s.creg = s := rfl

/-! ### putOps -/

@[simp] theorem putOps_run (s : State) (v : Operands) : (s.putOps v).run = s.run := rfl
@[simp] theorem putOps_creg (s : State) (v : Operands) : (s.putOps v).creg = s.creg := rfl
@[simp] theorem putOps_ops (s : State) (v : Operands) : (s.putOps v).ops = v := rfl
@[simp] theorem putOps_result (s : State) (v : Operands) : (s.putOps v).result = s.result := rfl
@[simp] theorem putOps_err (s : State) (v : Operands) : (s.putOps v).err = s.err := rfl
@[simp] theorem putOps_stat (s : State) (v : Operands) : (s.putOps v).stat = s.stat := rfl
@[simp] theorem putOps_mod (s : State) (v : Operands) : (s.putOps v).mod = s.mod := rfl
@[simp] theorem putOps_dem (s : State) (v : Operands) : (s.putOps v).dem = s.dem := rfl
@[simp] theorem putOps_fbd (s : State) (v : Operands) : (s.putOps v).fbd = s.fbd := rfl
@[simp] theorem putOps_tb (s : State) (v : Operands) : (s.putOps v).tb = s.tb := rfl
@[simp] theorem putOps_se (s : State) (v : Operands) : (s.putOps v).se = s.se := rfl
@[simp] theorem putOps_pos (s : State) (v : Operands) : (s.putOps v).pos = s.pos := rfl
@[simp] theorem putOps_events (s : State) (v : Operands) : (s.putOps v).events = s.events := rfl
@[simp] theorem putOps_ret (s : State) (v : Operands) : (s.putOps v).ret = s.ret := rfl
@[simp] theorem putOps_records (s : State) (v : Operands) : (s.putOps v).records = s.records := rfl
@[simp] theorem putOps_putOps (s : State) (v w : Operands) : (s.putOps v).putOps w = s.putOps w := rfl
@[simp] theorem putOps_self (s : State) : s.putOps s.ops = s := rfl

/-! ### putResult -/

@[simp] theorem putResult_run (s : State) (v : Reg32) : (s.putResult v).run = s.run := rfl
@[simp] theorem putResult_creg (s : State) (v : Reg32) : (s.putResult v).creg = s.creg := rfl
@[simp] theorem putResult_ops (s : State) (v : Reg32) : (s.putResult v).ops = s.ops := rfl
@[simp] theorem putResult_result (s : State) (v : Reg32) : (s.putResult v).result = v := rfl
@[simp] theorem putResult_err (s : State) (v : Reg32) : (s.putResult v).err = s.err := rfl
@[simp] theorem putResult_stat (s : State) (v : Reg32) : (s.putResult v).stat = s.stat := rfl
@[simp] theorem putResult_mod (s : State) (v : Reg32) : (s.putResult v).mod = s.mod := rfl
@[simp] theorem putResult_dem (s : State) (v : Reg32) : (s.putResult v).dem = s.dem := rfl
@[simp] theorem putResult_fbd (s : State) (v : Reg32) : (s.putResult v).fbd = s.fbd := rfl
@[simp] theorem putResult_tb (s : State) (v : Reg32) : (s.putResult v).tb = s.tb := rfl
@[simp] theorem putResult_se (s : State) (v : Reg32) : (s.putResult v).se = s.se := rfl
@[simp] theorem putResult_pos (s : State) (v : Reg32) : (s.putResult v).pos = s.pos := rfl
@[simp] theorem putResult_events (s : State) (v : Reg32) : (s.putResult v).events = s.events := rfl
@[simp] theorem putResult_ret (s : State) (v : Reg32) : (s.putResult v).ret = s.ret := rfl
@[simp] theorem putResult_records (s : State) (v : Reg32) : (s.putResult v).records = s.records := rfl
@[simp] theorem putResult_putResult (s : State) (v w : Reg32) : (s.putResult v).putResult w = s.putResult w := rfl
@[simp] theorem putResult_self (s : State) : s.putResult s.result = s := rfl

/-! ### putErr -/

@[simp] theorem putErr_run (s : State) (v : Errors) : (s.putErr v).run = s.run := rfl
@[simp] theorem putErr_creg (s : State) (v : Errors) : (s.putErr v).creg = s.creg := rfl
@[simp] theorem putErr_ops (s : State) (v : Errors) : (s.putErr v).ops = s.ops := rfl
@[simp] theorem putErr_result (s : State) (v : Errors) : (s.putErr v).result = s.result := rfl
@[simp] theorem putErr_err (s : State) (v : Errors) : (s.putErr v).err = v := rfl
@[simp] theorem putErr_stat (s : State) (v : Errors) : (s.putErr v).stat = s.stat := rfl
@[simp] theorem putErr_mod (s : State) (v : Errors) : (s.putErr v).mod = s.mod := rfl
@[simp] theorem putErr_dem (s : State) (v : Errors) : (s.putErr v).dem = s.dem := rfl
@[simp] theorem putErr_fbd (s : State) (v : Errors) : (s.putErr v).fbd = s.fbd := rfl
@[simp] theorem putErr_tb (s : State) (v : Errors) : (s.putErr v).tb = s.tb := rfl
@[simp] theorem putErr_se (s : State) (v : Errors) : (s.putErr v).se = s.se := rfl
@[simp] theorem putErr_pos (s : State) (v : Errors) : (s.putErr v).pos = s.pos := rfl
@[simp] theorem putErr_events (s : State) (v : Errors) : (s.putErr v).events = s.events := rfl
@[simp] theorem putErr_ret (s : State) (v : Errors) : (s.putErr v).ret = s.ret := rfl
@[simp] theorem putErr_records (s : State) (v : Errors) : (s.putErr v).records = s.records := rfl
@[simp] theorem putErr_putErr (s : State) (v w : Errors) : (s.putErr v).putErr w = s.putErr w := rfl
@[simp] theorem putErr_self (s : State) : s.putErr s.err = s := rfl

/-! ### putStat -/

@[simp] theorem putStat_run (s : State) (v : Stats) : (s.putStat v).run = s.run := rfl
@[simp] theorem putStat_creg (s : State) (v : Stats) : (s.putStat v).creg = s.creg := rfl
@[simp] theorem putStat_ops (s : State) (v : Stats) : (s.putStat v).ops = s.ops := rfl
@[simp] theorem putStat_result (s : State) (v : Stats) : (s.putStat v).result = s.result := rfl
@[simp] theorem putStat_err (s : State) (v : Stats) : (s.putStat v).err = s.err := rfl
@[simp] theorem putStat_stat (s : State) (v : Stats) : (s.putStat v).stat = v := rfl
@[simp] theorem putStat_mod (s : State) (v : Stats) : (s.putStat v).mod = s.mod := rfl
@[simp] theorem putStat_dem (s : State) (v : Stats) : (s.putStat v).dem = s.dem := rfl
@[simp] theorem putStat_fbd (s : State) (v : Stats) : (s.putStat v).fbd = s.fbd := rfl
@[simp] theorem putStat_tb (s : State) (v : Stats) : (s.putStat v).tb = s.tb := rfl
@[simp] theorem putStat_se (s : State) (v : Stats) : (s.putStat v).se = s.se := rfl
@[simp] theorem putStat_pos (s : State) (v : Stats) : (s.putStat v).pos = s.pos := rfl
@[simp] theorem putStat_events (s : State) (v : Stats) : (s.putStat v).events = s.events := rfl
@[simp] theorem putStat_ret (s : State) (v : Stats) : (s.putStat v).ret = s.ret := rfl
@[simp] theorem putStat_records (s : State) (v : Stats) : (s.putStat v).records = s.records := rfl
@[simp] theorem putStat_putStat (s : State) (v w : Stats) : (s.putStat v).putStat w = s.putStat w := rfl
@[simp] theorem putStat_self (s : State) : s.putStat s.stat = s := rfl

/-! ### putMod -/

@[simp] theorem putMod_run (s : State) (v : Modulator) : (s.putMod v).run = s.run := rfl
@[simp] theorem putMod_creg (s : State) (v : Modulator) : (s.putMod v).creg = s.creg := rfl
@[simp] theorem putMod_ops (s : State) (v : Modulator) : (s.putMod v).ops = s.ops := rfl
@[simp] theorem putMod_result (s : State) (v : Modulator) : (s.putMod v).result = s.result := rfl
@[simp] theorem putMod_err (s : State) (v : Modulator) : (s.putMod v).err = s.err := rfl
@[simp] theorem putMod_stat (s : State) (v : Modulator) : (s.putMod v).stat = s.stat := rfl
@[simp] theorem putMod_mod (s : State) (v : Modulator) : (s.putMod v).mod = v := rfl
@[simp] theorem putMod_dem (s : State) (v : Modulator) : (s.putMod v).dem = s.dem := rfl
@[simp] theorem putMod_fbd (s : State) (v : Modulator) : (s.putMod v).fbd = s.fbd := rfl
@[simp] theorem putMod_tb (s : State) (v : Modulator) : (s.putMod v).tb = s.tb := rfl
@[simp] theorem putMod_se (s : State) (v : Modulator) : (s.putMod v).se = s.se := rfl
@[simp] theorem putMod_pos (s : State) (v : Modulator) : (s.putMod v).pos = s.pos := rfl
@[simp] theorem putMod_events (s : State) (v : Modulator) : (s.putMod v).events = s.events := rfl
@[simp] theorem putMod_ret (s : State) (v : Modulator) : (s.putMod v).ret = s.ret := rfl
@[simp] theorem putMod_records (s : State) (v : Modulator) : (s.putMod v).records = s.records := rfl
@[simp] theorem putMod_putMod (s : State) (v w : Modulator) : (s.putMod v).putMod w = s.putMod w := rfl
@[simp] theorem putMod_self (s : State) : s.putMod s.mod = s := rfl

/-! ### putDem -/

@[simp] theorem putDem_run (s : State) (v : Demodulator) : (s.putDem v).run = s.run := rfl
@[simp] theorem putDem_creg (s : State) (v : Demodulator) : (s.putDem v).creg = s.creg := rfl
@[simp] theorem putDem_ops (s : State) (v : Demodulator) : (s.putDem v).ops = s.ops := rfl
@[simp] theorem putDem_result (s : State) (v : Demodulator) : (s.putDem v).result = s.result := rfl
@[simp] theorem putDem_err (s : State) (v : Demodulator) : (s.putDem v).err = s.err := rfl
@[simp] theorem putDem_stat (s : State) (v : Demodulator) : (s.putDem v).stat = s.stat := rfl
@[simp] theorem putDem_mod (s : State) (v : Demodulator) : (s.putDem v).mod = s.mod := rfl
@[simp] theorem putDem_dem (s : State) (v : Demodulator) : (s.putDem v).dem = v := rfl
@[simp] theorem putDem_fbd (s : State) (v : Demodulator) : (s.putDem v).fbd = s.fbd := rfl
@[simp] theorem putDem_tb (s : State) (v : Demodulator) : (s.putDem v).tb = s.tb := rfl
@[simp] theorem putDem_se (s : State) (v : Demodulator) : (s.putDem v).se = s.se := rfl
@[simp] theorem putDem_pos (s : State) (v : Demodulator) : (s.putDem v).pos = s.pos := rfl
@[simp] theorem putDem_events (s : State) (v : Demodulator) : (s.putDem v).events = s.events := rfl
@[simp] theorem putDem_ret (s : State) (v : Demodulator) : (s.putDem v).ret = s.ret := rfl
@[simp] theorem putDem_records (s : State) (v : Demodulator) : (s.putDem v).records = s.records := rfl
@[simp] theorem putDem_putDem (s : State) (v w : Demodulator) : (s.putDem v).putDem w = s.putDem w := rfl
@[simp] theorem putDem_self (s : State) : s.putDem s.dem = s := rfl

/-! ### putFbd -/

@[simp] theorem putFbd_run (s : State) (v : Fbd) : (s.putFbd v).run = s.run := rfl
@[simp] theorem putFbd_creg (s : State) (v : Fbd) : (s.putFbd v).creg = s.creg := rfl
@[simp] theorem putFbd_ops (s : State) (v : Fbd) : (s.putFbd v).ops = s.ops := rfl
@[simp] theorem putFbd_result (s : State) (v : Fbd) : (s.putFbd v).result = s.result := rfl
@[simp] theorem putFbd_err (s : State) (v : Fbd) : (s.putFbd v).err = s.err := rfl
@[simp] theorem putFbd_stat (s : State) (v : Fbd) : (s.putFbd v).stat = s.stat := rfl
@[simp] theorem putFbd_mod (s : State) (v : Fbd) : (s.putFbd v).mod = s.mod := rfl
@[simp] theorem putFbd_dem (s : State) (v : Fbd) : (s.putFbd v).dem = s.dem := rfl
@[simp] theorem putFbd_fbd (s : State) (v : Fbd) : (s.putFbd v).fbd = v := rfl
@[simp] theorem putFbd_tb (s : State) (v : Fbd) : (s.putFbd v).tb = s.tb := rfl
@[simp] theorem putFbd_se (s : State) (v : Fbd) : (s.putFbd v).se = s.se := rfl
@[simp] theorem putFbd_pos (s : State) (v : Fbd) : (s.putFbd v).pos = s.pos := rfl
@[simp] theorem putFbd_events (s : State) (v : Fbd) : (s.putFbd v).events = s.events := rfl
@[simp] theorem putFbd_ret (s : State) (v : Fbd) : (s.putFbd v).ret = s.ret := rfl
@[simp] theorem putFbd_records (s : State) (v : Fbd) : (s.putFbd v).records = s.records := rfl
@[simp] theorem putFbd_putFbd (s : State) (v w : Fbd) : (s.putFbd v).putFbd w = s.putFbd w := rfl
@[simp] theorem putFbd_self (s : State) : s.putFbd s.fbd = s := rfl

/-! ### putTb -/

@[simp] theorem putTb_run (s : State) (v : Timebase) : (s.putTb v).run = s.run := rfl
@[simp] theorem putTb_creg (s : State) (v : Timebase) : (s.putTb v).creg = s.creg := rfl
@[simp] theorem putTb_ops (s : State) (v : Timebase) : (s.putTb v).ops = s.ops := rfl
@[simp] theorem putTb_result (s : State) (v : Timebase) : (s.putTb v).result = s.result := rfl
@[simp] theorem putTb_err (s : State) (v : Timebase) : (s.putTb v).err = s.err := rfl
@[simp] theorem putTb_stat (s : State) (v : Timebase) : (s.putTb v).stat = s.stat := rfl
@[simp] theorem putTb_mod (s : State) (v : Timebase) : (s.putTb v).mod = s.mod := rfl
@[simp] theorem putTb_dem (s : State) (v : Timebase) : (s.putTb v).dem = s.dem := rfl
@[simp] theorem putTb_fbd (s : State) (v : Timebase) : (s.putTb v).fbd = s.fbd := rfl
@[simp] theorem putTb_tb (s : State) (v : Timebase) : (s.putTb v).tb = v := rfl
@[simp] theorem putTb_se (s : State) (v : Timebase) : (s.putTb v).se = s.se := rfl
@[simp] theorem putTb_pos (s : State) (v : Timebase) : (s.putTb v).pos = s.pos := rfl
@[simp] theorem putTb_events (s : State) (v : Timebase) : (s.putTb v).events = s.events := rfl
@[simp] theorem putTb_ret (s : State) (v : Timebase) : (s.putTb v).ret = s.ret := rfl
@[simp] theorem putTb_records (s : State) (v : Timebase) : (s.putTb v).records = s.records := rfl
@[simp] theorem putTb_putTb (s : State) (v w : Timebase) : (s.putTb v).putTb w = s.putTb w := rfl
@[simp] theorem putTb_self (s : State) : s.putTb s.tb = s := rfl

/-! ### putSe -/

@[simp] theorem putSe_run (s : State) (v : SyncEngine) : (s.putSe v).run = s.run := rfl
@[simp] theorem putSe_creg (s : State) (v : SyncEngine) : (s.putSe v).creg = s.creg := rfl
@[simp] theorem putSe_ops (s : State) (v : SyncEngine) : (s.putSe v).ops = s.ops := rfl
@[simp] theorem putSe_result (s : State) (v : SyncEngine) : (s.putSe v).result = s.result := rfl
@[simp] theorem putSe_err (s : State) (v : SyncEngine) : (s.putSe v).err = s.err := rfl
@[simp] theorem putSe_stat (s : State) (v : SyncEngine) : (s.putSe v).stat = s.stat := rfl
@[simp] theorem putSe_mod (s : State) (v : SyncEngine) : (s.putSe v).mod = s.mod := rfl
@[simp] theorem putSe_dem (s : State) (v : SyncEngine) : (s.putSe v).dem = s.dem := rfl
@[simp] theorem putSe_fbd (s : State) (v : SyncEngine) : (s.putSe v).fbd = s.fbd := rfl
@[simp] theorem putSe_tb (s : State) (v : SyncEngine) : (s.putSe v).tb = s.tb := rfl
@[simp] theorem putSe_se (s : State) (v : SyncEngine) : (s.putSe v).se = v := rfl
@[simp] theorem putSe_pos (s : State) (v : SyncEngine) : (s.putSe v).pos = s.pos := rfl
@[simp] theorem putSe_events (s : State) (v : SyncEngine) : (s.putSe v).events = s.events := rfl
@[simp] theorem putSe_ret (s : State) (v : SyncEngine) : (s.putSe v).ret = s.ret := rfl
@[simp] theorem putSe_records (s : State) (v : SyncEngine) : (s.putSe v).records = s.records := rfl
@[simp] theorem putSe_putSe (s : State) (v w : SyncEngine) : (s.putSe v).putSe w = s.putSe w := rfl
@[simp] theorem putSe_self (s : State) : s.putSe s.se = s := rfl

/-! ### putPos -/

@[simp] theorem putPos_run (s : State) (v : PosLatch) : (s.putPos v).run = s.run := rfl
@[simp] theorem putPos_creg (s : State) (v : PosLatch) : (s.putPos v).creg = s.creg := rfl
@[simp] theorem putPos_ops (s : State) (v : PosLatch) : (s.putPos v).ops = s.ops := rfl
@[simp] theorem putPos_result (s : State) (v : PosLatch) : (s.putPos v).result = s.result := rfl
@[simp] theorem putPos_err (s : State) (v : PosLatch) : (s.putPos v).err = s.err := rfl
@[simp] theorem putPos_stat (s : State) (v : PosLatch) : (s.putPos v).stat = s.stat := rfl
@[simp] theorem putPos_mod (s : State) (v : PosLatch) : (s.putPos v).mod = s.mod := rfl
@[simp] theorem putPos_dem (s : State) (v : PosLatch) : (s.putPos v).dem = s.dem := rfl
@[simp] theorem putPos_fbd (s : State) (v : PosLatch) : (s.putPos v).fbd = s.fbd := rfl
@[simp] theorem putPos_tb (s : State) (v : PosLatch) : (s.putPos v).tb = s.tb := rfl
@[simp] theorem putPos_se (s : State) (v : PosLatch) : (s.putPos v).se = s.se := rfl
@[simp] theorem putPos_pos (s : State) (v : PosLatch) : (s.putPos v).pos = v := rfl
@[simp] theorem putPos_events (s : State) (v : PosLatch) : (s.putPos v).events = s.events := rfl
@[simp] theorem putPos_ret (s : State) (v : PosLatch) : (s.putPos v).ret = s.ret := rfl
@[simp] theorem putPos_records (s : State) (v : PosLatch) : (s.putPos v).records = s.records := rfl
@[simp] theorem putPos_putPos (s : State) (v w : PosLatch) : (s.putPos v).putPos w = s.putPos w := rfl
@[simp] theorem putPos_self (s : State) : s.putPos s.pos = s := rfl

/-! ### putEvents -/

@[simp] theorem putEvents_run (s : State) (v : List Stim) : (s.putEvents v).run = s.run := rfl
@[simp] theorem putEvents_creg (s : State) (v : List Stim) : (s.putEvents v).creg = s.creg := rfl
@[simp] theorem putEvents_ops (s : State) (v : List Stim) : (s.putEvents v).ops = s.ops := rfl
@[simp] theorem putEvents_result (s : State) (v : List Stim) : (s.putEvents v).result = s.result := rfl
@[simp] theorem putEvents_err (s : State) (v : List Stim) : (s.putEvents v).err = s.err := rfl
@[simp] theorem putEvents_stat (s : State) (v : List Stim) : (s.putEvents v).stat = s.stat := rfl
@[simp] theorem putEvents_mod (s : State) (v : List Stim) : (s.putEvents v).mod = s.mod := rfl
@[simp] theorem putEvents_dem (s : State) (v : List Stim) : (s.putEvents v).dem = s.dem := rfl
@[simp] theorem putEvents_fbd (s : State) (v : List Stim) : (s.putEvents v).fbd = s.fbd := rfl
@[simp] theorem putEvents_tb (s : State) (v : List Stim) : (s.putEvents v).tb = s.tb := rfl
@[simp] theorem putEvents_se (s : State) (v : List Stim) : (s.putEvents v).se = s.se := rfl
@[simp] theorem putEvents_pos (s : State) (v : List Stim) : (s.putEvents v).pos = s.pos := rfl
@[simp] theorem putEvents_events (s : State) (v : List Stim) : (s.putEvents v).events = v := rfl
@[simp] theorem putEvents_ret (s : State) (v : List Stim) : (s.putEvents v).ret = s.ret := rfl
@[simp] theorem putEvents_records (s : State) (v : List Stim) : (s.putEvents v).records = s.records := rfl
@[simp] theorem putEvents_putEvents (s : State) (v w : List Stim) : (s.putEvents v).putEvents w = s.putEvents w := rfl
@[simp] theorem putEvents_self (s : State) : s.putEvents s.events = s := rfl

/-! ### putRet -/

@[simp] theorem putRet_run (s : State) (v : Option Returned) : (s.putRet v).run = s.run := rfl
@[simp] theorem putRet_creg (s : State) (v : Option Returned) : (s.putRet v).creg = s.creg := rfl
@[simp] theorem putRet_ops (s : State) (v : Option Returned) : (s.putRet v).ops = s.ops := rfl
@[simp] theorem putRet_result (s : State) (v : Option Returned) : (s.putRet v).result = s.result := rfl
@[simp] theorem putRet_err (s : State) (v : Option Returned) : (s.putRet v).err = s.err := rfl
@[simp] theorem putRet_stat (s : State) (v : Option Returned) : (s.putRet v).stat = s.stat := rfl
@[simp] theorem putRet_mod (s : State) (v : Option Returned) : (s.putRet v).mod = s.mod := rfl
@[simp] theorem putRet_dem (s : State) (v : Option Returned) : (s.putRet v).dem = s.dem := rfl
@[simp] theorem putRet_fbd (s : State) (v : Option Returned) : (s.putRet v).fbd = s.fbd := rfl
@[simp] theorem putRet_tb (s : State) (v : Option Returned) : (s.putRet v).tb = s.tb := rfl
@[simp] theorem putRet_se (s : State) (v : Option Returned) : (s.putRet v).se = s.se := rfl
@[simp] theorem putRet_pos (s : State) (v : Option Returned) : (s.putRet v).pos = s.pos := rfl
@[simp] theorem putRet_events (s : State) (v : Option Returned) : (s.putRet v).events = s.events := rfl
@[simp] theorem putRet_ret (s : State) (v : Option Returned) : (s.putRet v).ret = v := rfl
@[simp] theorem putRet_records (s : State) (v : Option Returned) : (s.putRet v).records = s.records := rfl
@[simp] theorem putRet_putRet (s : State) (v w : Option Returned) : (s.putRet v).putRet w = s.putRet w := rfl
@[simp] theorem putRet_self (s : State) : s.putRet s.ret = s := rfl

/-! ### putRecords -/

@[simp] theorem putRecords_run (s : State) (v : List Record) : (s.putRecords v).run = s.run := rfl
@[simp] theorem putRecords_creg (s : State) (v : List Record) : (s.putRecords v).creg = s.creg := rfl
@[simp] theorem putRecords_ops (s : State) (v : List Record) : (s.putRecords v).ops = s.ops := rfl
@[simp] theorem putRecords_result (s : State) (v : List Record) : (s.putRecords v).result = s.result := rfl
@[simp] theorem putRecords_err (s : State) (v : List Record) : (s.putRecords v).err = s.err := rfl
@[simp] theorem putRecords_stat (s : State) (v : List Record) : (s.putRecords v).stat = s.stat := rfl
@[simp] theorem putRecords_mod (s : State) (v : List Record) : (s.putRecords v).mod = s.mod := rfl
@[simp] theorem putRecords_dem (s : State) (v : List Record) : (s.putRecords v).dem = s.dem := rfl
@[simp] theorem putRecords_fbd (s : State) (v : List Record) : (s.putRecords v).fbd = s.fbd := rfl
@[simp] theorem putRecords_tb (s : State) (v : List Record) : (s.putRecords v).tb = s.tb := rfl
@[simp] theorem putRecords_se (s : State) (v : List Record) : (s.putRecords v).se = s.se := rfl
@[simp] theorem putRecords_pos (s : State) (v : List Record) : (s.putRecords v).pos = s.pos := rfl
@[simp] theorem putRecords_events (s : State) (v : List Record) : (s.putRecords v).events = s.events := rfl
@[simp] theorem putRecords_ret (s : State) (v : List Record) : (s.putRecords v).ret = s.ret := rfl
@[simp] theorem putRecords_records (s : State) (v : List Record) : (s.putRecords v).records = v := rfl
@[simp] theorem putRecords_putRecords (s : State) (v w : List Record) : (s.putRecords v).putRecords w = s.putRecords w := rfl
@[simp] theorem putRecords_self (s : State) : s.putRecords s.records = s := rfl

end Sys2Proof.Machine.State
end

