-- ==== Sys2Proof/Laws/Ops.lean ====
section
/-! SUPPORT. One lemma for each shared operation: the register file, the recording of errors, start and stop,
reset and the fetch. A record update in a statement names all that the operation can change. -/

namespace Sys2Proof.Machine

/-! ## CTRL -/

@[simp] theorem ctrlWord_enOut (eo ei : Bool) : (ctrlWord eo ei).getLsbD 0 = eo := by
  revert eo ei; decide

@[simp] theorem ctrlWord_enIn (eo ei : Bool) : (ctrlWord eo ei).getLsbD 1 = ei := by
  revert eo ei; decide

theorem ctrlWord_toNat_lt (eo ei : Bool) : (ctrlWord eo ei).toNat < 2 ^ 2 := by
  revert eo ei; decide

/-! ## The register file -/

/-- The offset of each register (10 R46). -/
def offsetOfReg : Reg → Offset
  | .ctrl => 0x000#12
  | .status => 0x004#12
  | .cfg => 0x008#12
  | .srate => 0x00C#12
  | .smallthr => 0x010#12
  | .largethr => 0x014#12
  | .failthr => 0x018#12
  | .exthr => 0x01C#12
  | .emittol => 0x020#12
  | .ubits => 0x024#12
  | .fldTime => 0x028#12
  | .fldFlags => 0x02C#12
  | .fb0 => 0x030#12
  | .fb1 => 0x034#12
  | .fb2 => 0x038#12
  | .cmd => 0x03C#12
  | .result => 0x040#12
  | .posidx => 0x044#12
  | .posms => 0x048#12
  | .cntop => 0x04C#12
  | .tbcnt => 0x050#12
  | .okcnt => 0x054#12
  | .ferrcnt => 0x058#12
  | .rxtime => 0x05C#12
  | .rxflags => 0x060#12
  | .gapcnt => 0x064#12

/-- Every register is found at its offset. -/
@[simp] theorem regOfOffset_offsetOfReg (r : Reg) : regOfOffset (offsetOfReg r) = some r := by
  cases r <;> rfl

/-- And at no other. -/
theorem offset_of_regOfOffset {a : Offset} {r : Reg} (h : regOfOffset a = some r) : a = offsetOfReg r := by
  unfold regOfOffset at h
  apply BitVec.eq_of_toNat_eq
  split at h <;> first | (cases h; assumption) | cases h

/-- There is a register exactly at the multiples of 4 up to 0x064. -/
theorem regOfOffset_isSome (a : Offset) :
    (regOfOffset a).isSome = (decide (a.toNat % 4 = 0) && decide (a.toNat ≤ 0x64)) := by
  unfold regOfOffset
  split
  case h_27 =>
    have hne : ¬(a.toNat % 4 = 0 ∧ a.toNat ≤ 0x64) := by
      rintro ⟨h4, hle⟩
      obtain ⟨k, hk⟩ : ∃ k, a.toNat = 4 * k := ⟨a.toNat / 4, by omega⟩
      have hk26 : k < 26 := by omega
      interval_cases k <;> simp_all
    simpa using hne
  all_goals (rename_i h; simp [h])

/-- Reading a register just stored gives the data with the reserved bits 0, for every plain register. -/
theorem readReg_storeReg_same (s : State) (r : Reg) (d : Reg32) (h : regMask r ≠ 0#32) (hc : r ≠ .ctrl) :
    readReg (storeReg s r d) r = d &&& regMask r := by
  cases r <;> first | rfl | exact absurd rfl h | exact absurd rfl hc

/-- Storing a register leaves every other register as it reads. -/
theorem readReg_storeReg_other (s : State) (r q : Reg) (d : Reg32) (h : q ≠ r) :
    readReg (storeReg s r d) q = readReg s q := by
  cases r <;> cases q <;> first | rfl | exact absurd rfl h

/-- A store changes at most the configuration and operand registers. -/
theorem storeReg_eq (s : State) (r : Reg) (d : Reg32) :
    ∃ g o, storeReg s r d = { s with creg := g, ops := o } := by
  cases r <;> exact ⟨_, _, rfl⟩

/-- A store to an operand register leaves the configuration, a store to a configuration register the
operands. -/
theorem storeReg_creg_of_not_locked (s : State) (r : Reg) (d : Reg32) (h : regLocked r = false) :
    (storeReg s r d).creg = s.creg := by
  cases r <;> first | rfl | cases h

theorem storeReg_ops_of_locked (s : State) (r : Reg) (d : Reg32) (h : regLocked r = true) :
    (storeReg s r d).ops = s.ops := by
  cases r <;> first | rfl | cases h

/-! ## Errors -/

theorem recordConfigError_eq (s : State) :
    recordConfigError s = { s with err := { s.err with cfgerr := true } } := rfl

theorem recordDeviceError_eq (s : State) :
    recordDeviceError s = { s with err := { s.err with deverr := true } } := rfl

theorem recordFrameError_eq (s : State) (e : FrameError) :
    recordFrameError s e =
      { s with
        stat := { s.stat with ferrcnt := s.stat.ferrcnt + 1 }
        err := { s.err with lastferr := ferrCode e } } := rfl

theorem clearErrors_eq (s : State) : clearErrors s = { s with err := ⟨false, false, 0⟩ } := rfl

theorem appendRecord_eq (s : State) (r : Record) :
    appendRecord s r = { s with records := s.records ++ [r] } := rfl

/-! ## Start and stop -/

theorem startEmit_eq (s : State) :
    startEmit s =
      { s with
        run := { s.run with runEmit := true }
        mod := .reset
        tb := { s.tb with cnt := 0, tbvalid := false } } := rfl

theorem emitStop_eq (s : State) :
    emitStop s =
      { s with
        run := { s.run with runEmit := false }
        mod := .reset
        tb := { s.tb with cnt := 0, tbvalid := false } } := rfl

theorem clearRecv_eq (s : State) :
    clearRecv s = { s with se := .reset, tb := .reset, dem := .reset, fbd := .reset } := rfl

theorem startRecv_eq (s : State) :
    startRecv s =
      { s with
        run := { s.run with runRecv := true }
        se := .reset
        tb := .reset
        dem := .reset
        fbd := .reset
        stat := ⟨0, 0, 0, 0⟩ } := rfl

theorem stopRecv_eq (s : State) :
    stopRecv s =
      { s with
        run := { s.run with runRecv := false }
        se := .reset
        tb := .reset
        dem := .reset
        fbd := .reset } := rfl

/-! ## Reset, fetch and placement -/

theorem resetCore_eq (s : State) :
    resetCore s = { State.reset with events := s.events, ret := s.ret, records := s.records } := rfl

@[simp] theorem fetch_nil {s : State} (h : s.events = []) : fetch s = none := by
  simp [fetch, h]

theorem fetch_cons {s : State} {w : Stim} {rest : List Stim} (h : s.events = w :: rest) :
    fetch s = some (w, { s with events := rest, ret := none }) := by
  simp only [fetch, h]
  rfl

/-- The fetch that follows a push takes the word pushed. -/
theorem fetch_pushEvent (s : State) (w : Stim) : fetch (pushEvent s w) = some (w, { s with ret := none }) := rfl

/-- What the placement of a frame changes. -/
theorem pushFrame_eq (s : State) (b : FrameBits) :
    pushFrame s b =
      { s with
        run := ⟨ctrlWord false true, false, true⟩
        creg := { s.creg with srate := 48000#32 }
        tb := { s.tb with rxtacc := 0 }
        fbd := ⟨b <<< 1, 79⟩
        dem := ⟨0, 0, false, if b.getLsbD 79 then 9 else 21, true, b.getLsbD 79⟩
        events := stimWord 0x3#4 0 0x4000#32 :: s.events } := rfl

end Sys2Proof.Machine
end

