-- ==== Sys2Proof/Laws/SyncEngine.lean ====
section
/-! SUPPORT. What the operations of the sync engine can change, said once for each. -/

namespace Sys2Proof.Machine

/-! ## Corrections -/

theorem loadCount_eq (s : State) (c : Nat) :
    loadCount s c = { s with tb := { s.tb with cnt := BitVec.ofNat 22 c, tbvalid := true } } := rfl

/-- The `CORR` record of a kind for a count (45 R291). -/
def corrOf (s : State) (kind : CorrKind) (c : Nat) : Record :=
  .corr kind (BitVec.ofNat 32 (countPos s.rate s.hidx c).1) (BitVec.ofNat 32 (countPos s.rate s.hidx c).2)

theorem appendCorr_eq (s : State) (kind : CorrKind) (c : Nat) :
    appendCorr s kind c = { s with records := s.records ++ [corrOf s kind c] } := rfl

theorem smoothTo_eq (s : State) (c : Nat) :
    smoothTo s c =
      { s with
        tb := { s.tb with cnt := BitVec.ofNat 22 c, tbvalid := true }
        records := s.records ++ [corrOf s .smooth c] } := rfl

theorem jamTo_eq (s : State) (c : Nat) (first : Bool) :
    jamTo s c first =
      { s with
        tb := { s.tb with cnt := BitVec.ofNat 22 c, tbvalid := true }
        records := s.records ++ [corrOf s .jam c] ++ (if s.fwd then [.notify first] else []) } := by
  have h : State.fwd (loadCount (appendCorr s .jam c) c) = s.fwd := rfl
  unfold jamTo
  dsimp only
  rw [h]
  cases s.fwd
  · simp only [Bool.false_eq_true, if_false, List.append_nil]
    rfl
  · rfl

/-! ## Drift -/

/-- The five outcomes of `SE.EVAL` (45 R282, R283). -/
theorem seEval_cases (c : Nat) (s : State) :
    (s.tb.tbvalid = false ∧ seEval c s = jamTo s c true) ∨
    (s.tb.tbvalid = true ∧ s.extDis = false ∧ s.extF < absDiff s.tb.cnt.toNat c ∧
      seEval c s = { s with se := { s.se with lock := .unlocked }, err := { s.err with cfgerr := true } }) ∨
    (s.tb.tbvalid = true ∧ ¬(s.extDis = false ∧ s.extF < absDiff s.tb.cnt.toNat c) ∧
      absDiff s.tb.cnt.toNat c ≤ s.creg.smallthr.toNat ∧ seEval c s = s) ∨
    (s.tb.tbvalid = true ∧ ¬(s.extDis = false ∧ s.extF < absDiff s.tb.cnt.toNat c) ∧
      s.creg.smallthr.toNat < absDiff s.tb.cnt.toNat c ∧ absDiff s.tb.cnt.toNat c ≤ s.largeF ∧
      seEval c s = smoothTo s c) ∨
    (s.tb.tbvalid = true ∧ ¬(s.extDis = false ∧ s.extF < absDiff s.tb.cnt.toNat c) ∧
      s.creg.smallthr.toNat < absDiff s.tb.cnt.toNat c ∧ s.largeF < absDiff s.tb.cnt.toNat c ∧
      seEval c s = jamTo s c false) := by
  unfold seEval
  dsimp only
  rcases hv : s.tb.tbvalid with _ | _
  · exact .inl ⟨rfl, by simp⟩
  · refine .inr ?_
    by_cases hx : s.extDis = false ∧ s.extF < absDiff s.tb.cnt.toNat c
    · exact .inl ⟨rfl, hx.1, hx.2, by simp only [Bool.true_eq_false, if_false, if_pos hx]; rfl⟩
    · by_cases ha : absDiff s.tb.cnt.toNat c ≤ s.creg.smallthr.toNat
      · exact .inr (.inl ⟨rfl, hx, ha, by simp only [Bool.true_eq_false, if_false, if_neg hx, if_pos ha]⟩)
      · by_cases hl : absDiff s.tb.cnt.toNat c ≤ s.largeF
        · exact .inr (.inr (.inl ⟨rfl, hx, by omega, hl,
            by simp only [Bool.true_eq_false, if_false, if_neg hx, if_neg ha, if_pos hl]⟩))
        · exact .inr (.inr (.inr ⟨rfl, hx, by omega, by omega,
            by simp only [Bool.true_eq_false, if_false, if_neg hx, if_neg ha, if_neg hl]⟩))

/-- `SE.EVAL` changes at most `LOCK`, `CFGERR`, `CNT`, `TBVALID` and the records. -/
theorem seEval_eq (c : Nat) (s : State) :
    ∃ l e n v r, seEval c s =
      { s with
        se := { s.se with lock := l }
        err := { s.err with cfgerr := e }
        tb := { s.tb with cnt := n, tbvalid := v }
        records := r } := by
  rcases seEval_cases c s with ⟨_, h⟩ | ⟨_, _, _, h⟩ | ⟨_, _, _, h⟩ | ⟨_, _, _, _, h⟩ | ⟨_, _, _, _, h⟩
  · exact ⟨_, _, _, _, _, h.trans (jamTo_eq s c true)⟩
  · exact ⟨_, _, _, _, _, h⟩
  · exact ⟨_, _, _, _, _, h⟩
  · exact ⟨_, _, _, _, _, h.trans (smoothTo_eq s c)⟩
  · exact ⟨_, _, _, _, _, h.trans (jamTo_eq s c false)⟩

/-! ## Frames, errors, ticks -/

/-- `SE.FRAME` records the frame in the statistics, and changes at most the sync engine, `CFGERR`, `CNT`, `TBVALID`
and the records. -/
theorem seFrame_eq (f : LtcFrame) (s : State) :
    ∃ q e n v r, seFrame f s =
      { s with
        se := q
        stat := { s.stat with
          okcnt := s.stat.okcnt + 1
          rxtime := packTime (frameLabel f)
          rxflags := packFlags (frameFlags f) }
        err := { s.err with cfgerr := e }
        tb := { s.tb with cnt := n, tbvalid := v }
        records := r } := by
  unfold seFrame
  dsimp only
  split
  · obtain ⟨l, e, n, v, r, h⟩ := seEval_eq (labelCount s.rate (frameLabel f))
      (((s.putStat { s.stat with
          okcnt := s.stat.okcnt + 1
          rxtime := packTime (frameLabel f)
          rxflags := packFlags (frameFlags f) })).putSe
        { s.se with gap := 0, lock := lockOnFrame s.rate s.se (labelCount s.rate (frameLabel f)) })
    exact ⟨_, _, _, _, _, by
      refine Eq.trans (congrArg (fun x : State => x.putSe { x.se with prevcnt := _, prevv := true }) h) ?_
      rfl⟩
  · exact ⟨_, _, _, _, _, rfl⟩

/-- `SE.FERR` changes `FERRCNT`, `LASTFERR` and at most `PREVV`. -/
theorem seFerr_eq (e : FrameError) (s : State) :
    ∃ p, seFerr e s =
      { s with
        stat := { s.stat with ferrcnt := s.stat.ferrcnt + 1 }
        err := { s.err with lastferr := ferrCode e }
        se := { s.se with prevv := p } } := by
  unfold seFerr
  dsimp only
  split
  · exact ⟨_, rfl⟩
  · exact ⟨_, rfl⟩

/-- `SE.TICK` changes `CNT`, `GAP` and at most `LOCK`. -/
theorem seTick_eq (s : State) :
    ∃ l g, seTick s =
      { s with
        tb := { s.tb with cnt := BitVec.ofNat 22 (nextCount s.rate s.tb.cnt.toNat) }
        se := { s.se with lock := l, gap := g } } := by
  unfold seTick
  dsimp only
  split
  · exact ⟨_, _, rfl⟩
  · split
    · exact ⟨_, _, rfl⟩
    · exact ⟨_, _, rfl⟩

/-! ## Emit mode -/

/-- `EMIT.NEXT` (45 R272). -/
theorem emitNext_eq (s : State) :
    emitNext s =
      { s with
        tb := { s.tb with cnt := BitVec.ofNat 22 (emitCount s), tbvalid := true }
        mod := { s.mod with
          mbits := encodeFrame (countLabel s.rate (emitCount s)) s.builtFlags
          mbit := 0
          mpos := 0
          mact := true } } := rfl

end Sys2Proof.Machine
end

