-- ==== Sys2Proof/Laws/Demodulator.lean ====
section
/-! SUPPORT. What the operations of the receive path can change, said once for each. -/

namespace Sys2Proof.Machine

/-! ## What a candidate can change -/

/-- `t` is `s` but for what a candidate frame can change: the shift register's counter and contents, the sync
engine, the statistics, the errors `CFGERR` and `LASTFERR`, `CNT`, `TBVALID` and the records. -/
structure CandidateFrame (s t : State) : Prop where
  run : t.run = s.run
  creg : t.creg = s.creg
  ops : t.ops = s.ops
  result : t.result = s.result
  deverr : t.err.deverr = s.err.deverr
  mod : t.mod = s.mod
  dem : t.dem = s.dem
  rxtacc : t.tb.rxtacc = s.tb.rxtacc
  pos : t.pos = s.pos
  events : t.events = s.events
  ret : t.ret = s.ret

theorem CandidateFrame.refl (s : State) : CandidateFrame s s :=
  ⟨rfl, rfl, rfl, rfl, rfl, rfl, rfl, rfl, rfl, rfl, rfl⟩

theorem CandidateFrame.trans {s t u : State} (h : CandidateFrame s t) (k : CandidateFrame t u) :
    CandidateFrame s u :=
  ⟨k.run.trans h.run, k.creg.trans h.creg, k.ops.trans h.ops, k.result.trans h.result, k.deverr.trans h.deverr,
    k.mod.trans h.mod, k.dem.trans h.dem, k.rxtacc.trans h.rxtacc, k.pos.trans h.pos, k.events.trans h.events,
    k.ret.trans h.ret⟩

/-- `RX.DEC` is `SE.FRAME` or `SE.FERR` of what the candidate decodes to. -/
theorem rxDec_cases (s : State) :
    (∃ f, decodeFrame s.fbd.rxsr (rateFn s.rate) = .ok f ∧ rxDec s = seFrame f s) ∨
    (∃ e, decodeFrame s.fbd.rxsr (rateFn s.rate) = .error e ∧ rxDec s = seFerr e s) := by
  unfold rxDec
  split
  · exact .inl ⟨_, ‹_›, rfl⟩
  · exact .inr ⟨_, ‹_›, rfl⟩

theorem rxDec_frame (s : State) : CandidateFrame s (rxDec s) ∧ (rxDec s).fbd = s.fbd := by
  rcases rxDec_cases s with ⟨f, -, h⟩ | ⟨e, -, h⟩
  · obtain ⟨_, _, _, _, _, k⟩ := seFrame_eq f s
    rw [h, k]
    exact ⟨⟨rfl, rfl, rfl, rfl, rfl, rfl, rfl, rfl, rfl, rfl, rfl⟩, rfl⟩
  · obtain ⟨_, k⟩ := seFerr_eq e s
    rw [h, k]
    exact ⟨⟨rfl, rfl, rfl, rfl, rfl, rfl, rfl, rfl, rfl, rfl, rfl⟩, rfl⟩

/-! ## The shift register -/

theorem shiftIn_low (b : Bool) (r : FrameBits) (i : Nat) (h : i < 79) :
    (shiftIn b r).getLsbD i = r.getLsbD (i + 1) := by
  unfold shiftIn
  rw [BitVec.getLsbD_or, BitVec.getLsbD_ushiftRight, getLsbD_bitAt]
  have : i ≠ 79 := by omega
  simp [this, Nat.add_comm]

theorem shiftIn_top (b : Bool) (r : FrameBits) : (shiftIn b r).getLsbD 79 = b := by
  unfold shiftIn
  rw [BitVec.getLsbD_or, BitVec.getLsbD_ushiftRight, getLsbD_bitAt, BitVec.getLsbD_of_ge r (1 + 79) (by omega)]
  simp

/-- The three outcomes of `FBD.SHIFT` (43 R197): the 80th bit, an early sync word, and neither. -/
theorem fbdShift_cases (b : Bool) (s : State) :
    (s.fbd.rxcnt + 1 = 80#7 ∧
      fbdShift b s = { rxDec { s with fbd := ⟨shiftIn b s.fbd.rxsr, 80#7⟩ } with
        fbd := ⟨shiftIn b s.fbd.rxsr, 0⟩ }) ∨
    (s.fbd.rxcnt + 1 ≠ 80#7 ∧ syncok (shiftIn b s.fbd.rxsr) = true ∧
      fbdShift b s = { s with fbd := ⟨shiftIn b s.fbd.rxsr, 0⟩ }) ∨
    (s.fbd.rxcnt + 1 ≠ 80#7 ∧ syncok (shiftIn b s.fbd.rxsr) = false ∧
      fbdShift b s = { s with fbd := ⟨shiftIn b s.fbd.rxsr, s.fbd.rxcnt + 1⟩ }) := by
  unfold fbdShift
  dsimp only
  by_cases hc : s.fbd.rxcnt + 1 = 80#7
  · refine .inl ⟨hc, ?_⟩
    rw [if_pos (.inr hc), if_pos hc, hc]
    have hf := (rxDec_frame (s.putFbd ⟨shiftIn b s.fbd.rxsr, 80#7⟩)).2
    rw [hf]
    rfl
  · rcases hs : syncok (shiftIn b s.fbd.rxsr) with _ | _
    · refine .inr (.inr ⟨hc, rfl, ?_⟩)
      rw [if_neg (fun h => h.elim (fun h => Bool.noConfusion h) hc)]
      rfl
    · refine .inr (.inl ⟨hc, rfl, ?_⟩)
      rw [if_pos (.inl rfl), if_neg hc]
      rfl

theorem fbdShift_frame (b : Bool) (s : State) : CandidateFrame s (fbdShift b s) := by
  rcases fbdShift_cases b s with ⟨-, h⟩ | ⟨-, -, h⟩ | ⟨-, -, h⟩ <;> rw [h]
  · have k := (rxDec_frame { s with fbd := ⟨shiftIn b s.fbd.rxsr, 80#7⟩ }).1
    exact ⟨k.run, k.creg, k.ops, k.result, k.deverr, k.mod, k.dem, k.rxtacc, k.pos, k.events, k.ret⟩
  · exact ⟨rfl, rfl, rfl, rfl, rfl, rfl, rfl, rfl, rfl, rfl, rfl⟩
  · exact ⟨rfl, rfl, rfl, rfl, rfl, rfl, rfl, rfl, rfl, rfl, rfl⟩

/-- The shift register after `FBD.SHIFT` holds the bit, whatever else happened. -/
theorem fbdShift_rxsr (b : Bool) (s : State) : (fbdShift b s).fbd.rxsr = shiftIn b s.fbd.rxsr := by
  rcases fbdShift_cases b s with ⟨-, h⟩ | ⟨-, -, h⟩ | ⟨-, -, h⟩ <;> rw [h]

theorem shiftBits_frame (b : FrameBits) (n : Nat) (s : State) : CandidateFrame s (shiftBits b n s) := by
  induction n generalizing s with
  | zero => exact .refl s
  | succ n ih => exact (fbdShift_frame _ s).trans (ih _)

/-! ## The edge detector and the classifier -/

theorem demodEdge_eq (x : Sample) (s : State) :
    demodEdge x s = { s with dem := (edgeDetect s.dem x).2 } := rfl

/-- The edge detector reports an edge exactly when it changes the level, and leaves the timer and the pending
half alone (43 R192). -/
theorem edgeDetect_spec (d : Demodulator) (x : Sample) :
    ((edgeDetect d x).1 = true ↔ (edgeDetect d x).2.dlvl ≠ d.dlvl) ∧
    (edgeDetect d x).2.tmr = d.tmr ∧ (edgeDetect d x).2.tmrv = d.tmrv ∧ (edgeDetect d x).2.half = d.half := by
  unfold edgeDetect
  dsimp only
  split
  · rename_i h
    exact ⟨⟨fun _ => by simp [h.1], fun _ => rfl⟩, rfl, rfl, rfl⟩
  · split
    · rename_i h
      exact ⟨⟨fun _ => by simp [h.1], fun _ => rfl⟩, rfl, rfl, rfl⟩
    · exact ⟨⟨fun h => by simp at h, fun h => absurd rfl h⟩, rfl, rfl, rfl⟩

/-- The four outcomes of `DEMOD.CLS` (43 R195). -/
theorem demodCls_cases (d : Reg32) (s : State) :
    (s.shortInterval d.toNat = true ∧ s.dem.half = true ∧
      demodCls d s = fbdShift true { s with dem := { s.dem with half := false } }) ∨
    (s.shortInterval d.toNat = true ∧ s.dem.half = false ∧
      demodCls d s = { s with dem := { s.dem with half := true } }) ∨
    (s.shortInterval d.toNat = false ∧ s.longInterval d.toNat = true ∧
      demodCls d s = fbdShift false { s with dem := { s.dem with half := false } }) ∨
    (s.shortInterval d.toNat = false ∧ s.longInterval d.toNat = false ∧
      demodCls d s = { s with dem := { s.dem with half := false } }) := by
  unfold demodCls
  rcases hs : s.shortInterval d.toNat with _ | _
  · rcases hl : s.longInterval d.toNat with _ | _
    · exact .inr (.inr (.inr ⟨rfl, rfl, by simp only [Bool.false_eq_true, if_false]; rfl⟩))
    · exact .inr (.inr (.inl ⟨rfl, rfl, by simp only [Bool.false_eq_true, if_false, if_true]; rfl⟩))
  · rcases hh : s.dem.half with _ | _
    · exact .inr (.inl ⟨rfl, rfl, by simp only [Bool.false_eq_true, if_false, if_true]; rfl⟩)
    · exact .inl ⟨rfl, rfl, by simp only [if_true]; rfl⟩

/-- `DEMOD.CLS` changes at most `HALF` and what a candidate can change. -/
theorem demodCls_frame (d : Reg32) (s : State) :
    ∃ h, CandidateFrame { s with dem := { s.dem with half := h } } (demodCls d s) := by
  rcases demodCls_cases d s with ⟨-, -, h⟩ | ⟨-, -, h⟩ | ⟨-, -, h⟩ | ⟨-, -, h⟩ <;> rw [h]
  · exact ⟨_, fbdShift_frame _ _⟩
  · exact ⟨_, .refl _⟩
  · exact ⟨_, fbdShift_frame _ _⟩
  · exact ⟨_, .refl _⟩

/-! ## The local tick -/

/-- The two outcomes of `RX.TICKGEN` (43 R191). -/
theorem rxTickgen_cases (s : State) :
    (s.rateA ≤ s.tb.rxtacc.toNat + rateNum s.rate ∧
      rxTickgen s = seTick { s with
        tb := { s.tb with rxtacc := BitVec.ofNat 40 (s.tb.rxtacc.toNat + rateNum s.rate - s.rateA) } }) ∨
    (s.tb.rxtacc.toNat + rateNum s.rate < s.rateA ∧
      rxTickgen s = { s with
        tb := { s.tb with rxtacc := BitVec.ofNat 40 (s.tb.rxtacc.toNat + rateNum s.rate) } }) := by
  unfold rxTickgen
  dsimp only
  split
  · exact .inl ⟨‹_›, rfl⟩
  · exact .inr ⟨by omega, rfl⟩

/-- `RX.TICKGEN` changes `RXTACC` and at most `CNT`, `GAP` and `LOCK`. -/
theorem rxTickgen_eq (s : State) :
    ∃ a n l g, rxTickgen s =
      { s with tb := { s.tb with rxtacc := a, cnt := n }, se := { s.se with lock := l, gap := g } } := by
  rcases rxTickgen_cases s with ⟨-, h⟩ | ⟨-, h⟩
  · obtain ⟨l, g, k⟩ := seTick_eq { s with
      tb := { s.tb with rxtacc := BitVec.ofNat 40 (s.tb.rxtacc.toNat + rateNum s.rate - s.rateA) } }
    exact ⟨_, _, l, g, h.trans k⟩
  · exact ⟨_, _, _, _, h⟩

/-! ## The sample -/

/-- What `SMP.IN` leaves alone in every case (43 R190): the run flags and `CTRL`, the configuration, the
operands, `RESULT`, `DEVERR`, the modulator, the latches, the events and the value returned. -/
theorem smpIn_frame (x : Sample) (s : State) :
    (smpIn x s).run = s.run ∧ (smpIn x s).creg = s.creg ∧ (smpIn x s).ops = s.ops ∧
    (smpIn x s).result = s.result ∧ (smpIn x s).err.deverr = s.err.deverr ∧ (smpIn x s).mod = s.mod ∧
    (smpIn x s).pos = s.pos ∧ (smpIn x s).events = s.events ∧ (smpIn x s).ret = s.ret := by
  unfold smpIn
  dsimp only
  split
  · exact ⟨rfl, rfl, rfl, rfl, rfl, rfl, rfl, rfl, rfl⟩
  · obtain ⟨a, n, l, g, h⟩ := rxTickgen_eq s
    rw [h]
    split
    · unfold onEdge
      dsimp only
      split
      · obtain ⟨_, k⟩ := demodCls_frame
          (State.putDem _ { (State.dem _) with tmr := BitVec.ofNat 32 (sat32 (_ + 1)) }).dem.tmr
          (State.putDem _ { (State.dem _) with tmr := 0 })
        exact ⟨k.run, k.creg, k.ops, k.result, k.deverr, k.mod, k.pos, k.events, k.ret⟩
      · exact ⟨rfl, rfl, rfl, rfl, rfl, rfl, rfl, rfl, rfl⟩
    · exact ⟨rfl, rfl, rfl, rfl, rfl, rfl, rfl, rfl, rfl⟩

end Sys2Proof.Machine
end

