-- ==== Sys2Proof/Laws/HostControl.lean ====
section
/-! SUPPORT. What the commands and the writes of the host can change, said once for each. -/

namespace Sys2Proof.Machine

/-! ## Commands -/

/-- A codec or timebase command writes the operand registers and `RESULT`. -/
abbrev WritesOperands (s t : State) : Prop := ∃ o r, t = { s with ops := o, result := r }

theorem cmdEnc_eq (s : State) : WritesOperands s (cmdEnc s) := by
  unfold cmdEnc; dsimp only; split <;> exact ⟨_, _, rfl⟩

theorem cmdDec_eq (s : State) : WritesOperands s (cmdDec s) := by
  unfold cmdDec; split <;> exact ⟨_, _, rfl⟩

theorem cmdSyncchk_eq (s : State) : WritesOperands s (cmdSyncchk s) := ⟨_, _, rfl⟩

theorem cmdLbl2cnt_eq (s : State) : WritesOperands s (cmdLbl2cnt s) := by
  unfold cmdLbl2cnt; split <;> exact ⟨_, _, rfl⟩

theorem cmdCnt2lbl_eq (s : State) : WritesOperands s (cmdCnt2lbl s) := by
  unfold cmdCnt2lbl; split <;> exact ⟨_, _, rfl⟩

theorem cmdInclbl_eq (s : State) : WritesOperands s (cmdInclbl s) := by
  unfold cmdInclbl; split <;> exact ⟨_, _, rfl⟩

theorem cmdTofrm_eq (s : State) : WritesOperands s (cmdTofrm s) := ⟨_, _, rfl⟩

theorem cmdTopos_eq (s : State) : WritesOperands s (cmdTopos s) := by
  unfold cmdTopos; dsimp only; split <;> exact ⟨_, _, rfl⟩

theorem cmdNop_eq (s : State) : cmdNop s = { s with result := 0 } := rfl

theorem cmdReserved_eq (s : State) : cmdReserved s = { s with result := resultCmdErr } := rfl

theorem cmdClrerr_eq (s : State) : cmdClrerr s = { s with result := 0, err := ⟨false, false, 0⟩ } := rfl

/-- A command that is neither `CLRERR` nor `SRESET` writes operands and `RESULT` at most. -/
theorem runCommand_eq (op : BitVec 8) (s : State) (h9 : op.toNat ≠ 0x09) (hA : op.toNat ≠ 0x0A) :
    WritesOperands s (runCommand op s) := by
  unfold runCommand
  split
  · exact ⟨_, _, rfl⟩
  · exact cmdEnc_eq s
  · exact cmdDec_eq s
  · exact cmdSyncchk_eq s
  · exact cmdLbl2cnt_eq s
  · exact cmdCnt2lbl_eq s
  · exact cmdInclbl_eq s
  · exact cmdTofrm_eq s
  · exact cmdTopos_eq s
  · exact absurd ‹_› h9
  · exact absurd ‹_› hA
  · exact ⟨_, _, rfl⟩

theorem runCommand_clrerr (op : BitVec 8) (s : State) (h : op.toNat = 0x09) : runCommand op s = cmdClrerr s := by
  unfold runCommand; rw [h]; rfl

theorem runCommand_sreset (op : BitVec 8) (s : State) (h : op.toNat = 0x0A) : runCommand op s = resetCore s := by
  unfold runCommand; rw [h]; rfl

/-! ## REG.WR CTRL -/

/-- What `REG.WR CTRL` never changes. -/
theorem ctrlWrite_frame (eo ei : Bool) (s : State) :
    (ctrlWrite eo ei s).creg = s.creg ∧ (ctrlWrite eo ei s).ops = s.ops ∧ (ctrlWrite eo ei s).result = s.result ∧
    (ctrlWrite eo ei s).pos = s.pos ∧ (ctrlWrite eo ei s).events = s.events ∧ (ctrlWrite eo ei s).ret = s.ret ∧
    (ctrlWrite eo ei s).records = s.records ∧
    (ctrlWrite eo ei s).run.ctrl = ctrlWord (ctrlGrant eo ei s).enOut (ctrlGrant eo ei s).enIn ∧
    (ctrlWrite eo ei s).err = { s.err with cfgerr := s.err.cfgerr || (ctrlGrant eo ei s).refused } := by
  unfold ctrlWrite
  dsimp only
  generalize ctrlGrant eo ei s = g
  obtain ⟨go, gi, gr⟩ := g
  dsimp only
  split_ifs <;> simp_all [recordConfigError, startEmit, startRecv, stopRecv, emitStop, clearRecv]

/-! ## REG.WR -/

/-- The cases of `RegWrite` (46 R321). -/
theorem writeOffset_cases (a : Offset) (d : Reg32) (s : State) :
    (regOfOffset a = none ∧ writeOffset a d s = s) ∨
    (regOfOffset a = some .ctrl ∧ writeOffset a d s = ctrlWrite (d.getLsbD 0) (d.getLsbD 1) s) ∨
    (regOfOffset a = some .cmd ∧ writeOffset a d s = runCommand (d.setWidth 8) s) ∨
    (∃ r, regOfOffset a = some r ∧ r ≠ .ctrl ∧ r ≠ .cmd ∧
      writeOffset a d s = if regLocked r && s.running then s else storeReg s r d) := by
  unfold writeOffset
  split
  · exact .inl ⟨‹_›, rfl⟩
  · exact .inr (.inl ⟨‹_›, rfl⟩)
  · exact .inr (.inr (.inl ⟨‹_›, rfl⟩))
  · rename_i r hc hm h
    exact .inr (.inr (.inr ⟨r, h, fun e => hc e, fun e => hm e, rfl⟩))

/-! ## DEV.ERR -/

/-- What `DEV.ERR` never changes, and what it always writes (46 R336). -/
theorem devErr_frame (s : State) :
    (devErr s).creg = s.creg ∧ (devErr s).ops = s.ops ∧ (devErr s).result = s.result ∧ (devErr s).pos = s.pos ∧
    (devErr s).stat = s.stat ∧ (devErr s).events = s.events ∧ (devErr s).ret = s.ret ∧
    (devErr s).records = s.records ∧ (devErr s).err = { s.err with deverr := true } ∧
    (devErr s).run = ⟨ctrlWord false false, false, false⟩ := by
  unfold devErr
  dsimp only
  split_ifs <;> simp_all [recordDeviceError, stopRecv, emitStop, clearRecv]

end Sys2Proof.Machine
end

