-- ==== Sys2Proof/Laws/Modulator.lean ====
section
/-! SUPPORT. What the operations of the emit path can change, said once for each. -/

namespace Sys2Proof.Machine

theorem modCell_eq (s : State) :
    modCell s =
      { s with mod := { s.mod with
          mlen := BitVec.ofNat 32 ((s.mod.macc.toNat + s.rateA) / s.rateB)
          macc := BitVec.ofNat 18 ((s.mod.macc.toNat + s.rateA) % s.rateB)
          mlvl := !s.mod.mlvl } } := rfl

/-- The mid-cell transition changes at most the level. -/
theorem midToggle_eq (s : State) :
    midToggle s =
      { s with mod := { s.mod with
          mlvl := s.mod.mlvl ^^
            (s.mod.mbits.getLsbD s.mod.mbit.toNat && decide (s.mod.mpos.toNat = s.mod.mlen.toNat / 2)) } } := by
  unfold midToggle
  split
  · rename_i h
    rw [h.1, decide_eq_true h.2]
    simp only [Bool.and_true, Bool.xor_true]
    rfl
  · rename_i h
    have : (s.mod.mbits.getLsbD s.mod.mbit.toNat && decide (s.mod.mpos.toNat = s.mod.mlen.toNat / 2)) = false := by
      by_contra hc
      simp only [Bool.not_eq_false, Bool.and_eq_true, decide_eq_true_eq] at hc
      exact h hc
    rw [this, Bool.xor_false]

/-- The three outcomes of the end of a sample (42 R170). -/
theorem advanceSample_cases (s : State) :
    (s.mod.mpos + 1 ≠ s.mod.mlen ∧ advanceSample s = { s with mod := { s.mod with mpos := s.mod.mpos + 1 } }) ∨
    (s.mod.mpos + 1 = s.mod.mlen ∧ s.mod.mbit.toNat ≠ 79 ∧
      advanceSample s = { s with mod := { s.mod with mpos := 0, mbit := s.mod.mbit + 1 } }) ∨
    (s.mod.mpos + 1 = s.mod.mlen ∧ s.mod.mbit.toNat = 79 ∧
      advanceSample s = { s with mod := { s.mod with mpos := 0, mbit := 0, mact := false } }) := by
  unfold advanceSample
  dsimp only
  split
  · split
    · exact .inr (.inr ⟨‹_›, ‹_›, rfl⟩)
    · exact .inr (.inl ⟨‹_›, ‹_›, rfl⟩)
  · exact .inl ⟨‹_›, rfl⟩

/-- A sample of a frame in progress changes the modulator and the value returned. -/
theorem emitSample_eq (s : State) :
    ∃ m, emitSample s = { s with mod := m, ret := some (.sample (sampleOf m.mlvl)) } := by
  have hc : ∃ m, (if s.mod.mpos = 0 then modCell s else s) = { s with mod := m } := by
    split
    · exact ⟨_, modCell_eq s⟩
    · exact ⟨_, rfl⟩
  obtain ⟨m, hm⟩ := hc
  unfold emitSample
  dsimp only
  rw [hm, midToggle_eq]
  generalize (Modulator.mk _ m.mbits m.mbit m.mpos m.mlen m.macc m.mact) = q
  have hp : ∃ p, advanceSample { s with mod := q } = { s with mod := p } ∧ p.mlvl = q.mlvl := by
    rcases advanceSample_cases { s with mod := q } with ⟨-, h⟩ | ⟨-, -, h⟩ | ⟨-, -, h⟩ <;> exact ⟨_, h, rfl⟩
  obtain ⟨p, h, hl⟩ := hp
  rw [h, ← hl]
  exact ⟨p, rfl⟩

/-- The four outcomes of `SMP.OUT` (42 R170). -/
theorem smpOut_cases (s : State) :
    (s.run.runEmit = false ∧ smpOut s = { s with ret := some (.sample 0) }) ∨
    (s.run.runEmit = true ∧ s.mod.mact = true ∧ smpOut s = emitSample s) ∨
    (s.run.runEmit = true ∧ s.mod.mact = false ∧ s.enOut = false ∧
      smpOut s = { emitStop s with ret := some (.sample 0) }) ∨
    (s.run.runEmit = true ∧ s.mod.mact = false ∧ s.enOut = true ∧ smpOut s = emitSample (emitNext s)) := by
  unfold smpOut
  rcases hr : s.run.runEmit with _ | _
  · exact .inl ⟨rfl, rfl⟩
  · rcases hm : s.mod.mact with _ | _
    · rcases he : s.enOut with _ | _
      · exact .inr (.inr (.inl ⟨rfl, rfl, rfl, rfl⟩))
      · exact .inr (.inr (.inr ⟨rfl, rfl, rfl, rfl⟩))
    · exact .inr (.inl ⟨rfl, rfl, rfl⟩)

/-- A sample is `+AMPL` or `−AMPL`, for every `AMPL` (42 R173). -/
theorem sampleOf_toInt (l : Bool) :
    (sampleOf l).toInt = if l then (Config.ampl : Int) else -(Config.ampl : Int) := by
  have h : Config.ampl ≤ 32767 := by
    have := Config.amplLessOne.isLt
    unfold Config.ampl
    omega
  have hp : (BitVec.ofNat 16 Config.ampl).toInt = (Config.ampl : Int) := by
    rw [BitVec.toInt_eq_toNat_of_lt]
    · rw [BitVec.toNat_ofNat]; omega
    · rw [BitVec.toNat_ofNat]; omega
  cases l
  · show (-(BitVec.ofNat 16 Config.ampl)).toInt = -(Config.ampl : Int)
    rw [BitVec.toInt_neg, hp, Int.bmod_eq_of_le] <;> omega
  · exact hp

end Sys2Proof.Machine
end

