-- ==== Sys2Proof/Laws/PerInstr.lean ====
section
/-! SUPPORT. A family of facts made per instruction: the word an instruction is written as is canonical, every
bit its row ignores being 0. -/

namespace Sys2Proof.Laws

/-- The word has 0 in every bit its row ignores (30 R120, R125); a frame ends in the sync word (30 R101). -/
def CanonicalWord : CodeWord → Prop
  | .cmd w => w.toNat < 2 ^ 8
  | .stim w =>
    let addr : Offset := w.extractLsb' 32 12
    let data : Reg32 := w.extractLsb' 0 32
    match (w.extractLsb' 44 4).toNat with
    | 0x0 => addr = 0 ∧ data = 0
    | 0x1 => (addr = 0x000#12 → data.toNat < 2 ^ 2) ∧ (addr = 0x03C#12 → data.toNat < 2 ^ 8)
    | 0x2 => data = 0
    | 0x3 => addr = 0 ∧ data = (data.setWidth 16).signExtend 32
    | 0x4 => addr = 0 ∧ data = 0
    | 0x5 => addr = 0
    | 0x6 => addr = 0
    | 0x7 => addr = 0 ∧ data = 0
    | _ => True
  | .ltc b => syncok b = true

/-- What the family says of an instruction. -/
def Canonical.Statement (i : Instr) : Prop :=
  i.wf = true → ∀ c, encode i = some c → CanonicalWord c

/-- A command word holds its opcode alone. -/
theorem canonical_cmdWord (op : BitVec 8) : CanonicalWord (.cmd (cmdWord op)) := by
  simp only [CanonicalWord, cmdWord, BitVec.toNat_setWidth]
  omega

/-- A stimulus word is canonical by the kind, address and data it is built from. -/
theorem canonical_stimWord (k : BitVec 4) (a : Offset) (d : Reg32)
    (h : match k.toNat with
      | 0x0 => a = 0 ∧ d = 0
      | 0x1 => (a = 0x000#12 → d.toNat < 2 ^ 2) ∧ (a = 0x03C#12 → d.toNat < 2 ^ 8)
      | 0x2 => d = 0
      | 0x3 => a = 0 ∧ d = (d.setWidth 16).signExtend 32
      | 0x4 => a = 0 ∧ d = 0
      | 0x5 => a = 0
      | 0x6 => a = 0
      | 0x7 => a = 0 ∧ d = 0
      | _ => True) : CanonicalWord (.stim (stimWord k a d)) := by
  simp only [CanonicalWord, stimWord_kind, stimWord_addr, stimWord_data]
  exact h

theorem Canonical.nop : Canonical.Statement .nop := by
  intro _ c h
  cases h
  exact canonical_cmdWord _

theorem Canonical.enc : Canonical.Statement .enc := by
  intro _ c h
  cases h
  exact canonical_cmdWord _

theorem Canonical.dec : Canonical.Statement .dec := by
  intro _ c h
  cases h
  exact canonical_cmdWord _

theorem Canonical.syncchk : Canonical.Statement .syncchk := by
  intro _ c h
  cases h
  exact canonical_cmdWord _

theorem Canonical.lbl2cnt : Canonical.Statement .lbl2cnt := by
  intro _ c h
  cases h
  exact canonical_cmdWord _

theorem Canonical.cnt2lbl : Canonical.Statement .cnt2lbl := by
  intro _ c h
  cases h
  exact canonical_cmdWord _

theorem Canonical.inclbl : Canonical.Statement .inclbl := by
  intro _ c h
  cases h
  exact canonical_cmdWord _

theorem Canonical.tofrm : Canonical.Statement .tofrm := by
  intro _ c h
  cases h
  exact canonical_cmdWord _

theorem Canonical.topos : Canonical.Statement .topos := by
  intro _ c h
  cases h
  exact canonical_cmdWord _

theorem Canonical.clrerr : Canonical.Statement .clrerr := by
  intro _ c h
  cases h
  exact canonical_cmdWord _

theorem Canonical.sreset : Canonical.Statement .sreset := by
  intro _ c h
  cases h
  exact canonical_cmdWord _

theorem Canonical.reservedCmd0B : Canonical.Statement .reservedCmd0B := by
  intro _ c h
  cases h
  exact canonical_cmdWord _

theorem Canonical.reservedCmd0C (lo : BitVec 2) : Canonical.Statement (.reservedCmd0C lo) := by
  intro _ c h
  cases h
  exact canonical_cmdWord _

theorem Canonical.reservedCmd10 (lo : BitVec 4) : Canonical.Statement (.reservedCmd10 lo) := by
  intro _ c h
  cases h
  exact canonical_cmdWord _

theorem Canonical.reservedCmd20 (lo : BitVec 5) : Canonical.Statement (.reservedCmd20 lo) := by
  intro _ c h
  cases h
  exact canonical_cmdWord _

theorem Canonical.reservedCmd40 (lo : BitVec 6) : Canonical.Statement (.reservedCmd40 lo) := by
  intro _ c h
  cases h
  exact canonical_cmdWord _

theorem Canonical.reservedCmd80 (lo : BitVec 7) : Canonical.Statement (.reservedCmd80 lo) := by
  intro _ c h
  cases h
  exact canonical_cmdWord _

theorem Canonical.rst : Canonical.Statement .rst := by
  intro _ c h
  cases h
  exact canonical_stimWord _ _ _ ⟨rfl, rfl⟩

theorem Canonical.regWr (addr : Offset) (data : Reg32) : Canonical.Statement (.regWr addr data) := by
  intro hw c h
  cases h
  simp only [Instr.wf, Bool.and_eq_true, decide_eq_true_eq] at hw
  exact canonical_stimWord _ _ _ ⟨fun e => absurd e hw.1, fun e => absurd e hw.2⟩

theorem Canonical.regRd (addr : Offset) : Canonical.Statement (.regRd addr) := by
  intro _ c h
  cases h
  exact canonical_stimWord 0x2#4 _ _ rfl

theorem Canonical.smpIn (s : Sample) : Canonical.Statement (.smpIn s) := by
  intro _ c h
  cases h
  refine canonical_stimWord 0x3#4 _ _ ⟨rfl, ?_⟩
  have : (s.signExtend 32).setWidth 16 = s := by
    apply BitVec.eq_of_getLsbD_eq
    intro i hi
    have h32 : i < 32 := by omega
    rw [BitVec.getLsbD_setWidth, BitVec.getLsbD_signExtend]
    simp [hi, h32]
  rw [this]

theorem Canonical.smpOut : Canonical.Statement .smpOut := by
  intro _ c h
  cases h
  exact canonical_stimWord _ _ _ ⟨rfl, rfl⟩

theorem Canonical.posIdx (v : Reg32) : Canonical.Statement (.posIdx v) := by
  intro _ c h
  cases h
  exact canonical_stimWord 0x5#4 _ _ rfl

theorem Canonical.posMs (v : Reg32) : Canonical.Statement (.posMs v) := by
  intro _ c h
  cases h
  exact canonical_stimWord 0x6#4 _ _ rfl

theorem Canonical.devErr : Canonical.Statement .devErr := by
  intro _ c h
  cases h
  exact canonical_stimWord _ _ _ ⟨rfl, rfl⟩

theorem Canonical.reservedKind (kind : BitVec 3) (addr : Offset) (data : Reg32) : Canonical.Statement (.reservedKind kind addr data) := by
  intro _ c h
  cases h
  refine canonical_stimWord _ _ _ ?_
  have : ∀ k : BitVec 3, 8 ≤ (0x8#4 ||| k.setWidth 4).toNat := by decide
  have := this kind
  split <;> first | trivial | omega

theorem Canonical.regWrCtrl (enOut enIn : Bool) : Canonical.Statement (.regWrCtrl enOut enIn) := by
  intro _ c h
  cases h
  refine canonical_stimWord 0x1#4 _ _ ⟨fun _ => ?_, fun e => absurd e (by decide)⟩
  revert enOut enIn
  decide

theorem Canonical.regWrCmd (opcode : BitVec 8) : Canonical.Statement (.regWrCmd opcode) := by
  intro _ c h
  cases h
  refine canonical_stimWord 0x1#4 _ _ ⟨fun e => absurd e (by decide), fun _ => ?_⟩
  exact canonical_cmdWord opcode

theorem Canonical.modCell : Canonical.Statement .modCell := by
  intro _ c h
  cases h

theorem Canonical.emitNext : Canonical.Statement .emitNext := by
  intro _ c h
  cases h

theorem Canonical.emitStop : Canonical.Statement .emitStop := by
  intro _ c h
  cases h

theorem Canonical.startEmit : Canonical.Statement .startEmit := by
  intro _ c h
  cases h

theorem Canonical.startRecv : Canonical.Statement .startRecv := by
  intro _ c h
  cases h

theorem Canonical.stopRecv : Canonical.Statement .stopRecv := by
  intro _ c h
  cases h

theorem Canonical.rxTickgen : Canonical.Statement .rxTickgen := by
  intro _ c h
  cases h

theorem Canonical.demodEdge (s : Sample) : Canonical.Statement (.demodEdge s) := by
  intro _ c h
  cases h

theorem Canonical.demodCls (d : Reg32) : Canonical.Statement (.demodCls d) := by
  intro _ c h
  cases h

theorem Canonical.fbdShift (b : Bool) : Canonical.Statement (.fbdShift b) := by
  intro _ c h
  cases h

theorem Canonical.rxDec : Canonical.Statement .rxDec := by
  intro _ c h
  cases h

theorem Canonical.seFrame (f : LtcFrame) : Canonical.Statement (.seFrame f) := by
  intro _ c h
  cases h

theorem Canonical.seEval (c : BitVec 22) : Canonical.Statement (.seEval c) := by
  intro _ c h
  cases h

theorem Canonical.seFerr (e : FrameError) : Canonical.Statement (.seFerr e) := by
  intro _ c h
  cases h

theorem Canonical.seTick : Canonical.Statement .seTick := by
  intro _ c h
  cases h

theorem Canonical.ltcFrame (w : LtcWord) : Canonical.Statement (.ltcFrame w) := by
  intro _ c h
  cases h
  exact syncok_ltcBits w

end Sys2Proof.Laws
end

