-- ==== Sys2Proof/Laws/Reception.lean ====
section
/-! SUPPORT. A frame arriving bit by bit: the shift register on the way, and that a frame that decodes shows no
sync word before its end. -/

namespace Sys2Proof.Machine

/-! ## The shift register while a frame arrives -/

/-- The shift register `k` bits into the frame `b`, over what it held before: the first `k` bits of `b` at the
top, the rest of `r` below (30 R108, 43 R197). -/
def windowAfter (r b : FrameBits) (k : Nat) : FrameBits := (r >>> k) ||| (b <<< (80 - k))

@[simp] theorem windowAfter_zero (r b : FrameBits) : windowAfter r b 0 = r := by
  apply BitVec.eq_of_getLsbD_eq
  intro i hi
  simp [windowAfter, hi]

@[simp] theorem windowAfter_whole (r b : FrameBits) : windowAfter r b 80 = b := by
  apply BitVec.eq_of_getLsbD_eq
  intro i hi
  simp [windowAfter]

/-- Bit `i` of the register `k` bits into a frame: a bit of the frame when it has come that far, a bit of what was
there before otherwise. -/
theorem windowAfter_getLsbD (r b : FrameBits) (k i : Nat) (hk : k ≤ 80) (hi : i < 80) :
    (windowAfter r b k).getLsbD i = if 80 ≤ k + i then b.getLsbD (k + i - 80) else r.getLsbD (k + i) := by
  unfold windowAfter
  rw [BitVec.getLsbD_or, BitVec.getLsbD_ushiftRight, BitVec.getLsbD_shiftLeft]
  split
  · rename_i h
    have h1 : ¬i < 80 - k := by omega
    have h2 : i - (80 - k) = k + i - 80 := by omega
    simp [BitVec.getLsbD_of_ge r (k + i) h, h1, h2, hi]
  · have h1 : i < 80 - k := by omega
    simp [h1]

/-- One more bit of the frame. -/
theorem shiftIn_windowAfter (r b : FrameBits) (k : Nat) (hk : k < 80) :
    shiftIn (b.getLsbD k) (windowAfter r b k) = windowAfter r b (k + 1) := by
  apply BitVec.eq_of_getLsbD_eq
  intro i hi
  rw [windowAfter_getLsbD _ _ _ _ (by omega) hi]
  rcases Nat.lt_or_ge i 79 with h | h
  · rw [shiftIn_low _ _ _ h, windowAfter_getLsbD _ _ _ _ (by omega) (by omega)]
    have : k + (i + 1) = k + 1 + i := by omega
    rw [this]
  · have h79 : i = 79 := by omega
    subst h79
    rw [shiftIn_top, if_pos (by omega)]
    congr 1

/-- The register after the bits of a frame is that window, whatever the frame-boundary detector does. -/
theorem shiftBits_rxsr (r b : FrameBits) (n : Nat) (hn : n ≤ 80) (s : State)
    (h : s.fbd.rxsr = windowAfter r b (80 - n)) : (shiftBits b n s).fbd.rxsr = b := by
  induction n generalizing s with
  | zero => exact h.trans (windowAfter_whole r b)
  | succ n ih =>
    refine ih (by omega) _ ?_
    have e : 79 - n = 80 - (n + 1) := by omega
    rw [fbdShift_rxsr, h, e, shiftIn_windowAfter _ _ _ (by omega)]
    congr 1
    omega

/-- From a frame boundary with no sync word on the way, the 80 bits of a frame do what `RX.DEC` of the frame
does, and nothing before it. -/
theorem shiftBits_quiet (r b : FrameBits) (n : Nat) (h0 : 0 < n) (hn : n ≤ 80) (s : State)
    (hr : s.fbd = ⟨windowAfter r b (80 - n), BitVec.ofNat 7 (80 - n)⟩)
    (h : ∀ k, 80 - n < k → k < 80 → syncok (windowAfter r b k) = false) :
    shiftBits b n s = { rxDec { s with fbd := ⟨b, 80#7⟩ } with fbd := ⟨b, 0⟩ } := by
  induction n generalizing s with
  | zero => omega
  | succ n ih =>
    have e : 79 - n = 80 - (n + 1) := by omega
    have hs : shiftIn (b.getLsbD (79 - n)) s.fbd.rxsr = windowAfter r b (80 - n) := by
      rw [hr, e, shiftIn_windowAfter _ _ _ (by omega)]
      congr 1
      omega
    have hc : s.fbd.rxcnt + 1 = BitVec.ofNat 7 (80 - n) := by
      rw [hr]
      apply BitVec.eq_of_toNat_eq
      have h1 : (1 : BitVec 7).toNat = 1 := rfl
      simp only [BitVec.toNat_add, BitVec.toNat_ofNat, h1]
      omega
    show shiftBits b n (fbdShift (b.getLsbD (79 - n)) s) = _
    rcases Nat.eq_zero_or_pos n with hz | hp
    · subst hz
      rcases fbdShift_cases (b.getLsbD (79 - 0)) s with ⟨-, k⟩ | ⟨k, -⟩ | ⟨k, -⟩
      · rw [k, hs]
        simp only [Nat.sub_zero, windowAfter_whole]
        rfl
      · exact absurd hc k
      · exact absurd hc k
    · have hne : s.fbd.rxcnt + 1 ≠ 80#7 := by
        rw [hc]
        intro hx
        have := congrArg BitVec.toNat hx
        simp only [BitVec.toNat_ofNat] at this
        omega
      rcases fbdShift_cases (b.getLsbD (79 - n)) s with ⟨k, -⟩ | ⟨-, k, -⟩ | ⟨-, -, k⟩
      · exact absurd k hne
      · rw [hs, h (80 - n) (by omega) (by omega)] at k
        cases k
      · rw [k, hs, hc, ih hp (by omega) _ rfl (fun j h1 h2 => h j (by omega) h2)]

/-- A frame is received exactly by a running receive path. -/
theorem receiveFrame_off (w : LtcWord) {s : State} (h : s.run.runRecv = false) : receiveFrame w s = s :=
  if_pos h

theorem receiveFrame_on (w : LtcWord) {s : State} (h : s.run.runRecv = true) :
    receiveFrame w s = shiftBits (ltcBits w) 80 s :=
  if_neg (fun k => Bool.noConfusion (h.symm.trans k))

/-! ## No sync word inside a frame -/

/-- In a frame that decodes no digit field has its two highest bits 1 (the frames units, the seconds units, the
minutes units and the hours units at most 9, the seconds and minutes tens at most 5, the frames and hours tens at
most 2), and frame bits 64 and 65 are 0 (41 R146, 30 R104). -/
theorem digits_of_decode {b : FrameBits} {fn : Nat} {f : LtcFrame} (hfn : fn ≤ 30)
    (hd : decodeFrame b fn = .ok f) :
    ¬(b.getLsbD 2 = true ∧ b.getLsbD 3 = true) ∧ ¬(b.getLsbD 8 = true ∧ b.getLsbD 9 = true) ∧
    ¬(b.getLsbD 18 = true ∧ b.getLsbD 19 = true) ∧ ¬(b.getLsbD 25 = true ∧ b.getLsbD 26 = true) ∧
    ¬(b.getLsbD 34 = true ∧ b.getLsbD 35 = true) ∧ ¬(b.getLsbD 41 = true ∧ b.getLsbD 42 = true) ∧
    ¬(b.getLsbD 50 = true ∧ b.getLsbD 51 = true) ∧ ¬(b.getLsbD 56 = true ∧ b.getLsbD 57 = true) ∧
    b.getLsbD 64 = false ∧ b.getLsbD 65 = false := by
  have units : ∀ v : BitVec 4, v.toNat ≤ 9 → ¬(v.getLsbD 2 = true ∧ v.getLsbD 3 = true) := by decide
  have tens3 : ∀ v : BitVec 3, v.toNat ≤ 5 → ¬(v.getLsbD 1 = true ∧ v.getLsbD 2 = true) := by decide
  have tens2 : ∀ v : BitVec 2, v.toNat ≤ 2 → ¬(v.getLsbD 0 = true ∧ v.getLsbD 1 = true) := by decide
  rcases decodeFrame_cases b fn with ⟨-, h⟩ | ⟨-, -, h⟩ | ⟨-, -, -, h⟩ | ⟨hs, hb, hf, -⟩
  · rw [hd] at h; cases h
  · rw [hd] at h; cases h
  · rw [hd] at h; cases h
  simp only [badDigits, Bool.or_eq_false_iff, twoDigits, ltcFields] at hb hf
  obtain ⟨⟨⟨⟨⟨⟨fu, su⟩, mu⟩, hu⟩, st⟩, mt⟩, hh⟩ := hb
  have nf : ∀ {m n : Nat}, decide (m < n) = false → n ≤ m := fun h => Nat.not_lt.mp (of_decide_eq_false h)
  have hh := nf hh
  have hsync : b.extractLsb' 64 16 = syncWord := by simpa [syncok] using hs
  have b64 := congrArg (fun v : BitVec 16 => v.getLsbD 0) hsync
  have b65 := congrArg (fun v : BitVec 16 => v.getLsbD 1) hsync
  refine ⟨?_, ?_, ?_, ?_, ?_, ?_, ?_, ?_, ?_, ?_⟩
  · simpa using units _ (nf fu)
  · simpa using tens2 (b.extractLsb' 8 2) (by omega)
  · simpa using units _ (nf su)
  · simpa using tens3 _ (nf st)
  · simpa using units _ (nf mu)
  · simpa using tens3 _ (nf mt)
  · simpa using units _ (nf hu)
  · simpa using tens2 (b.extractLsb' 56 2) (by omega)
  · simpa [syncWord] using b64
  · simpa [syncWord] using b65

/-- A frame that decodes, received right after enable or after another frame, shows no sync word before its 80th
bit: its digits break every run of twelve 1s, and the sync word does not overlap itself. -/
theorem no_early_sync {r b : FrameBits} {fn : Nat} {f : LtcFrame} (hfn : fn ≤ 30)
    (hr : r = 0 ∨ r.extractLsb' 64 16 = syncWord) (hd : decodeFrame b fn = .ok f) (k : Nat) (h0 : 0 < k)
    (hk : k < 80) : syncok (windowAfter r b k) = false := by
  by_contra hc
  have hw : (windowAfter r b k).extractLsb' 64 16 = syncWord := by simpa [syncok] using hc
  have bit : ∀ j, j < 16 → (windowAfter r b k).getLsbD (64 + j) = syncWord.getLsbD j := by
    intro j hj
    have := congrArg (fun v : BitVec 16 => v.getLsbD j) hw
    simpa [BitVec.getLsbD_extractLsb', hj] using this
  have one : ∀ i, k ≤ i + 14 → i + 3 ≤ k → b.getLsbD i = true := by
    intro i h1 h2
    have := bit (i + 16 - k) (by omega)
    rw [windowAfter_getLsbD _ _ _ _ (by omega) (by omega), if_pos (by omega)] at this
    have e : k + (64 + (i + 16 - k)) - 80 = i := by omega
    have hone : ∀ j, 2 ≤ j → j ≤ 13 → syncWord.getLsbD j = true := by
      intro j _ _
      interval_cases j <;> rfl
    rw [e, hone _ (by omega) (by omega)] at this
    exact this
  obtain ⟨p2, p8, p18, p25, p34, p41, p50, p56, z64, z65⟩ := digits_of_decode hfn hd
  have pair : ∀ a, k ≤ a + 14 → a + 4 ≤ k → b.getLsbD a = true ∧ b.getLsbD (a + 1) = true :=
    fun a h1 h2 => ⟨one a h1 (by omega), one (a + 1) (by omega) (by omega)⟩
  rcases Nat.lt_or_ge k 6 with h6 | h6
  · have old : ∀ j, j < 16 - k → r.getLsbD (64 + (k + j)) = syncWord.getLsbD j := by
      intro j hj
      have := bit j (by omega)
      rw [windowAfter_getLsbD _ _ _ _ (by omega) (by omega), if_neg (by omega)] at this
      rw [← this]
      congr 1
      omega
    rcases hr with rfl | hr
    · have := old 2 (by omega)
      simp [syncWord] at this
    · have prev : ∀ j, j < 16 → r.getLsbD (64 + j) = syncWord.getLsbD j := by
        intro j hj
        have := congrArg (fun v : BitVec 16 => v.getLsbD j) hr
        simpa [BitVec.getLsbD_extractLsb', hj] using this
      rcases Nat.lt_or_ge k 2 with h2 | h2
      · have hk1 : k = 1 := by omega
        subst hk1
        have := (prev (1 + 1) (by omega)).symm.trans (old 1 (by omega))
        simp [syncWord] at this
      · have := (prev (k + 0) (by omega)).symm.trans (old 0 (by omega))
        interval_cases k <;> simp [syncWord] at this
  · rcases Nat.lt_or_ge k 17 with h | h
    · exact p2 (pair 2 (by omega) (by omega))
    rcases Nat.lt_or_ge k 23 with h | h
    · exact p8 (pair 8 (by omega) (by omega))
    rcases Nat.lt_or_ge k 33 with h | h
    · exact p18 (pair 18 (by omega) (by omega))
    rcases Nat.lt_or_ge k 40 with h | h
    · exact p25 (pair 25 (by omega) (by omega))
    rcases Nat.lt_or_ge k 49 with h | h
    · exact p34 (pair 34 (by omega) (by omega))
    rcases Nat.lt_or_ge k 56 with h | h
    · exact p41 (pair 41 (by omega) (by omega))
    rcases Nat.lt_or_ge k 65 with h | h
    · exact p50 (pair 50 (by omega) (by omega))
    rcases Nat.lt_or_ge k 71 with h | h
    · exact p56 (pair 56 (by omega) (by omega))
    rcases Nat.lt_or_ge k 79 with h | h
    · exact Bool.noConfusion (z64.symm.trans (one 64 (by omega) (by omega)))
    · exact Bool.noConfusion (z65.symm.trans (one 65 (by omega) (by omega)))

end Sys2Proof.Machine
end

