-- ==== Sys2Proof/Laws/Step.lean ====
section
/-! SUPPORT. What a step can do, said once. -/

namespace Sys2Proof.Machine

theorem step_nil {s : State} (h : s.events = []) : step s = .next s := by
  simp only [step, fetch_nil h]

theorem step_cons {s : State} {w : Stim} {rest : List Stim} (h : s.events = w :: rest) :
    step s = exec (decodeStim w) { s with events := rest, ret := none } := by
  simp only [step, fetch_cons h]

/-- A step that answers a next state idles or runs the next event. -/
theorem step_cases {s t : State} (h : step s = .next t) :
    (s.events = [] ∧ t = s) ∨
    ∃ w rest, s.events = w :: rest ∧ exec (decodeStim w) { s with events := rest, ret := none } = .next t := by
  cases he : s.events with
  | nil =>
    rw [step_nil he] at h
    injection h with h
    exact .inl ⟨rfl, h.symm⟩
  | cons w rest =>
    rw [step_cons he] at h
    exact .inr ⟨w, rest, rfl, h⟩

/-- The step after a pushed event runs exactly it. -/
theorem step_pushEvent (s : State) (w : Stim) :
    step (pushEvent s w) = exec (decodeStim w) { s with ret := none } := rfl

end Sys2Proof.Machine
end

