-- ==== Sys2Proof/Laws/Timebase.lean ====
section
/-! SUPPORT. The bounds of the rate constants and of the counts computed from them. -/

namespace Sys2Proof.Machine

theorem rateNum_pos (r : Rate) : 0 < rateNum r := by cases r <;> decide
theorem rateDen_pos (r : Rate) : 0 < rateDen r := by cases r <;> decide
theorem rateFn_pos (r : Rate) : 0 < rateFn r := by cases r <;> decide
theorem rateFn_le (r : Rate) : rateFn r ≤ 30 := by cases r <;> decide
theorem rateHour_pos (r : Rate) : 0 < rateHour r := by cases r <;> decide
theorem rateDay_pos (r : Rate) : 0 < rateDay r := by cases r <;> decide

/-- A day of labels fits `CNT` (10 R53). -/
theorem rateDay_lt (r : Rate) : rateDay r < 2 ^ 22 := by cases r <;> decide

/-- A day is 24 hours (44 R233). -/
theorem rateDay_eq (r : Rate) : rateDay r = 24 * rateHour r := by cases r <;> decide

theorem nextCount_lt (r : Rate) (c : Nat) : nextCount r c < rateDay r := Nat.mod_lt _ (rateDay_pos r)

/-- Every position has a count below `DAY` (44 R238). -/
theorem posCount_lt (r : Rate) (hidx : Bool) (idx ms : Nat) : posCount r hidx idx ms < rateDay r := by
  unfold posCount
  dsimp only
  have hd := rateDay_eq r
  have hh := rateHour_pos r
  cases hidx
  · exact Nat.mod_lt _ (rateDay_pos r)
  · have h1 : idx % 24 ≤ 23 := by omega
    have h2 := Nat.mod_lt (ms * rateNum r / (1000 * rateDen r)) hh
    have h3 : idx % 24 * rateHour r ≤ 23 * rateHour r := Nat.mul_le_mul_right _ h1
    simp only [if_true]
    omega

end Sys2Proof.Machine
end

