-- ==== Sys2Proof/Machine/Trace.lean ====
section
/-! DEFINITION. The notations for event sequences and output records: the pseudo-operations of the trace syntax and their expansions (30 R130, R131), the codes of the records (30 R135), and the loading of a trace (log entry 1). -/

namespace Sys2Proof.Machine

/-! ## Pseudo-operations (30 R131) -/

/-- The pseudo-operations. The operand of `CMD` is the opcode of its mnemonic (30 R120). -/
inductive Pseudo where
  | cmd (opcode : BitVec 8)
  | enableEmit
  | enableRecv
  | disable
  | loadFb (w2 w1 w0 : Reg32)
  | loadTime (hh mm ss ff : Reg32)
  | pos (idx ms : Reg32)
  | smpOutTimes (n : Nat)
  | smpInTimes (n : Nat) (s : Sample)
  deriving DecidableEq, Repr

/-- The expansion of a pseudo-operation into events. -/
def Pseudo.expand : Pseudo → List Instr
  | .cmd opcode => [.regWrCmd opcode]
  | .enableEmit => [.regWrCtrl true false]
  | .enableRecv => [.regWrCtrl false true]
  | .disable => [.regWrCtrl false false]
  | .loadFb w2 w1 w0 => [.regWr 0x030#12 w0, .regWr 0x034#12 w1, .regWr 0x038#12 w2]
  | .loadTime hh mm ss ff => [.regWr 0x028#12 ((hh <<< 24) + (mm <<< 16) + (ss <<< 8) + ff)]
  | .pos idx ms => [.posIdx idx, .posMs ms]
  | .smpOutTimes n => List.replicate n .smpOut
  | .smpInTimes n s => List.replicate n (.smpIn s)

/-- The stimulus word of an event; `none` for an instruction that is no event. -/
def eventWord (i : Instr) : Option Stim :=
  match encode i with
  | some (.stim w) => some w
  | some (.cmd _) | some (.ltc _) | none => none

/-- `s` with a trace to arrive after the events that already wait. -/
def loadTrace (s : State) (t : List Stim) : State := s.putEvents (s.events ++ t)

/-! ## Output records (30 R135) -/

/-- The kind of a correction: 0 `Smooth`, 1 `Jam`. -/
def corrCode : CorrKind → BitVec 1
  | .smooth => 0#1
  | .jam => 1#1

/-- `F-CORR`, its three fields in the order of the rule. -/
def corrFields : Record → Option (BitVec 1 × Reg32 × Reg32)
  | .corr kind idx ms => some (corrCode kind, idx, ms)
  | .notify _ => none

/-- `F-NOTIFY`, its one field. -/
def notifyField : Record → Option (BitVec 1)
  | .corr _ _ _ => none
  | .notify first => some (BitVec.ofBool first)

end Sys2Proof.Machine
end

