-- ==== Sys2Proof/Tests/Slice0.lean ====
section
/-! SUPPORT. Tests: the checks of WellFormed, one written-out word for each encoded row, one or two small steps for
each operation with values from the spec, and a witness for every statement with hypotheses. -/

namespace Sys2Proof.Tests

open Sys2Proof Sys2Proof.Machine

/-! ## Small states -/

/-- The state of a next outcome; the state after reset for any other. -/
def nextOf : Host.Outcome State Fault Refusal → State
  | .next t => t
  | .fault _ => State.reset
  | .refused _ => State.reset

/-- A state after `i`. -/
def after (i : Instr) (s : State) : State := nextOf (exec i s)

/-- Stopped, with a rate code, 48000 samples per second. -/
def stopped (cfg : Reg32) : State := State.reset.putCreg { State.reset.creg with cfg := cfg, srate := 48000#32 }

/-- The same with `FLD_TIME`. -/
def timed (cfg : Reg32) (time : Reg32) : State := (stopped cfg).putOps { State.reset.ops with fldTime := time }

/-- Emitting, before the first frame. -/
def emitting (cfg : Reg32) : State := (stopped cfg).putRun ⟨1#32, true, false⟩

/-- Emitting, inside a cell of a frame. -/
def inFrame (cfg : Reg32) : State := (emitting cfg).putMod ⟨true, 1#80, 0#7, 3#32, 20#32, 0#18, true⟩

/-- Receiving, right after enable. -/
def receiving (cfg : Reg32) : State := (stopped cfg).putRun ⟨2#32, false, true⟩

/-- Receiving at 30 fps with a lock state, a valid timebase at `cnt` and a remembered predecessor. -/
def following (lock : Lock) (cnt prev : BitVec 22) : State :=
  ((receiving 3#32).putTb ⟨cnt, true, 0#40⟩).putSe ⟨lock, prev, true, 0#32⟩

/-- The frame 01:02:03:04 with no flags and no user bits. -/
def frame1234 : LtcFrame := ⟨1#8, 2#8, 3#8, 4#8, false, false, 0#4, 0#4, 0#4, 0#4⟩

/-! ## WellFormed: an ill-formed term for each check -/

theorem test_wf_regWr_refuses_ctrl :
    (Instr.regWr 0x000#12 3#32).wf = false := by decide

theorem test_wf_regWr_refuses_cmd :
    (Instr.regWr 0x03C#12 1#32).wf = false := by decide

theorem test_wf_seFrame_refuses_hours :
    (Instr.seFrame { frame1234 with hh := 24#8 }).wf = false := by decide

theorem test_wf_seFrame_refuses_minutes :
    (Instr.seFrame { frame1234 with mm := 60#8 }).wf = false := by decide

theorem test_wf_seFrame_refuses_seconds :
    (Instr.seFrame { frame1234 with ss := 60#8 }).wf = false := by decide

theorem test_wf_seFrame_refuses_frames :
    (Instr.seFrame { frame1234 with ff := 30#8 }).wf = false := by decide

theorem test_wf_seEval_refuses_a_day :
    (Instr.seEval 2592000#22).wf = false := by decide

theorem test_wf_accepts :
    (Instr.regWr 0x028#12 0#32).wf = true ∧ (Instr.seFrame frame1234).wf = true ∧ (Instr.seEval 2591999#22).wf = true := by decide

/-! ## Decode: a word written out from the spec for each encoded row -/

theorem test_decode_nop :
    decodeTableWord 8 0x00 = some .nop := by decide

theorem test_decode_enc :
    decodeTableWord 8 0x01 = some .enc := by decide

theorem test_decode_dec :
    decodeTableWord 8 0x02 = some .dec := by decide

theorem test_decode_syncchk :
    decodeTableWord 8 0x03 = some .syncchk := by decide

theorem test_decode_lbl2cnt :
    decodeTableWord 8 0x04 = some .lbl2cnt := by decide

theorem test_decode_cnt2lbl :
    decodeTableWord 8 0x05 = some .cnt2lbl := by decide

theorem test_decode_inclbl :
    decodeTableWord 8 0x06 = some .inclbl := by decide

theorem test_decode_tofrm :
    decodeTableWord 8 0x07 = some .tofrm := by decide

theorem test_decode_topos :
    decodeTableWord 8 0x08 = some .topos := by decide

theorem test_decode_clrerr :
    decodeTableWord 8 0x09 = some .clrerr := by decide

theorem test_decode_sreset :
    decodeTableWord 8 0x0A = some .sreset := by decide

theorem test_decode_reservedCmd0B :
    decodeTableWord 8 0x0B = some .reservedCmd0B := by decide

theorem test_decode_ignores_high_bits :
    decodeTableWord 32 0xFFFFFF01 = some .enc := by decide

theorem test_decode_reservedCmd0C :
    decodeTableWord 8 0x0E = some (.reservedCmd0C 2#2) := by decide

theorem test_decode_reservedCmd10 :
    decodeTableWord 8 0x1F = some (.reservedCmd10 15#4) := by decide

theorem test_decode_reservedCmd20 :
    decodeTableWord 8 0x21 = some (.reservedCmd20 1#5) := by decide

theorem test_decode_reservedCmd40 :
    decodeTableWord 8 0x7F = some (.reservedCmd40 63#6) := by decide

theorem test_decode_reservedCmd80 :
    decodeTableWord 8 0x80 = some (.reservedCmd80 0#7) := by decide

theorem test_decode_rst :
    decodeTableWord 48 0x000000000000 = some .rst := by decide

theorem test_decode_regWr :
    decodeTableWord 48 0x1028173B3B1D = some (.regWr 0x028#12 0x173B3B1D#32) := by decide

theorem test_decode_regWr_unmapped :
    decodeTableWord 48 0x1FFF00000001 = some (.regWr 0xFFF#12 1#32) := by decide

theorem test_decode_regRd :
    decodeTableWord 48 0x204000000000 = some (.regRd 0x040#12) := by decide

theorem test_decode_smpIn :
    decodeTableWord 48 0x3000FFFFC000 = some (.smpIn 0xC000#16) := by decide

theorem test_decode_smpOut :
    decodeTableWord 48 0x400000000000 = some .smpOut := by decide

theorem test_decode_posIdx :
    decodeTableWord 48 0x500000000003 = some (.posIdx 3#32) := by decide

theorem test_decode_posMs :
    decodeTableWord 48 0x60000000EA60 = some (.posMs 60000#32) := by decide

theorem test_decode_devErr :
    decodeTableWord 48 0x700000000000 = some .devErr := by decide

theorem test_decode_reservedKind :
    decodeTableWord 48 0xB12300000004 = some (.reservedKind 3#3 0x123#12 4#32) := by decide

theorem test_decode_regWrCtrl :
    decodeTableWord 48 0x100000000002 = some (.regWrCtrl false true) := by decide

theorem test_decode_regWrCmd :
    decodeTableWord 48 0x103C00000001 = some (.regWrCmd 0x01#8) := by decide

theorem test_decode_ltcFrame :
    decodeTableWord 80 0xBFFC0203050945392E19 =
      some (.ltcFrame ⟨9#4, 1#4, 2#2, true, true, 2#4, 9#4, 3#4, 5#3, false, 4#4, 9#4, 0#4, 5#3, false, 0#4, 3#4, 0#4, 2#2,
        false, false, 0#4⟩) := by decide

theorem test_decode_refuses_reversed_sync :
    decodeTableWord 80 0x3FFD0001000200030004 = none := by decide

theorem test_encode_internal_none :
    encode .modCell = none ∧ encode (.seEval 0#22) = none ∧ encode .rxDec = none ∧ encode .startRecv = none := by decide

/-! ## Traces -/

theorem test_pseudo_words :
    (Pseudo.enableRecv.expand ++ (Pseudo.cmd 1#8).expand ++ (Pseudo.loadTime 23#32 59#32 59#32 29#32).expand).map eventWord =
      [some 0x100000000002#48, some 0x103C00000001#48, some 0x1028173B3B1D#48] := by decide

theorem test_record_fields :
    corrFields (.corr .jam 3#32 500#32) = some (1#1, 3#32, 500#32) ∧ notifyField (.notify true) = some 1#1 := by decide

/-! ## Codec and timebase commands -/

theorem test_enc :
    ((after .enc (timed 3#32 0x01020304#32)).ops.fb0, (after .enc (timed 3#32 0x01020304#32)).ops.fb1,
      (after .enc (timed 3#32 0x01020304#32)).ops.fb2) = (0x00030004#32, 0x00010002#32, 0x0000BFFC#32) := by decide

theorem test_enc_range :
    (after .enc (timed 0#32 0x00000018#32)).result = 0x00000010#32 ∧
      (after .enc (timed 0#32 0x00000018#32)).ops = (timed 0#32 0x00000018#32).ops := by decide

theorem test_dec :
    (after .dec ((stopped 2#32).putOps ⟨0, 0, 0x45392E19#32, 0x02030509#32, 0x0000BFFC#32, 0, 0, 0⟩)).ops =
      ⟨0x173B3B1D#32, 0x00034321#32, 0x45392E19#32, 0x02030509#32, 0x0000BFFC#32, 0, 0, 0⟩ := by decide

theorem test_dec_digits :
    (after .dec ((stopped 2#32).putOps ⟨0, 0, 0x4539AE1A#32, 0x02030509#32, 0x0000BFFC#32, 0, 0, 0⟩)).result =
      0x00000102#32 := by decide

theorem test_syncchk :
    (after .syncchk ((stopped 0#32).putOps { State.reset.ops with fb2 := 0xBFFC#32 })).result = 0x00000100#32 := by decide

theorem test_syncchk_reversed :
    (after .syncchk ((stopped 0#32).putOps { State.reset.ops with fb2 := 0x3FFD#32 })).result = 0#32 := by decide

theorem test_lbl2cnt_drop :
    (after .lbl2cnt (timed 2#32 0x000A0000#32)).ops.cntop = 17982#32 := by decide

theorem test_lbl2cnt :
    (after .lbl2cnt (timed 3#32 0x01000000#32)).ops.cntop = 108000#32 := by decide

theorem test_cnt2lbl_drop :
    (after .cnt2lbl ((stopped 2#32).putOps { State.reset.ops with cntop := 1800#32 })).ops.fldTime = 0x00010002#32 := by decide

theorem test_cnt2lbl_range :
    (after .cnt2lbl ((stopped 2#32).putOps { State.reset.ops with cntop := 2589408#32 })).result = 0x00000010#32 := by decide

theorem test_inclbl_drop :
    (after .inclbl (timed 2#32 0x00003B1D#32)).ops.fldTime = 0x00010002#32 := by decide

theorem test_inclbl_midnight :
    (after .inclbl (timed 1#32 0x173B3B18#32)).ops.fldTime = 0#32 := by decide

theorem test_tofrm_index :
    (after .tofrm ((stopped 7#32).putOps { State.reset.ops with posidx := 3#32 })).ops.fldTime = 0x03000000#32 := by decide

theorem test_tofrm_drop :
    ((after .tofrm ((stopped 2#32).putOps { State.reset.ops with posms := 60061#32 })).ops.fldTime,
      (after .tofrm ((stopped 2#32).putOps { State.reset.ops with posms := 60061#32 })).ops.fldFlags) =
      (0x00010002#32, 0x00010000#32) := by decide

theorem test_topos :
    (after .topos (timed 3#32 0x00000001#32)).ops.posms = 34#32 := by decide

theorem test_topos_index :
    ((after .topos (timed 7#32 0x0300000F#32)).ops.posidx, (after .topos (timed 7#32 0x0300000F#32)).ops.posms) =
      (3#32, 500#32) := by decide

/-! ## Host control -/

theorem test_nop :
    (after .nop (State.reset.putResult 1#32)).result = 0#32 := by decide

theorem test_clrerr :
    readOffset ((State.reset).putErr ⟨true, true, 2#2⟩) 0x004#12 = 0x00002300#32 ∧
      readOffset (after .clrerr ((State.reset).putErr ⟨true, true, 2#2⟩)) 0x004#12 = 0#32 := by decide

theorem test_sreset :
    after .sreset (receiving 3#32) = State.reset := by decide

theorem test_reserved :
    (after (.regWrCmd 0xFF#8) State.reset).result = 0x00000020#32 ∧ after .reservedCmd0B State.reset = State.reset.putResult 0x20#32 := by decide

theorem test_rst_keeps_records :
    (after .rst ((receiving 3#32).putRecords [.notify true])) = State.reset.putRecords [.notify true] := by decide

theorem test_regWr_mask :
    (after (.regWr 0x008#12 0xFFFFFFFF#32) State.reset).creg.cfg = 0x0000001F#32 := by decide

theorem test_regWr_locked :
    after (.regWr 0x008#12 0xFFFFFFFF#32) (receiving 3#32) = receiving 3#32 := by decide

theorem test_regRd :
    (after (.regRd 0x014#12) State.reset).ret = some (.reg 0x000003E8#32) := by decide

theorem test_regRd_unmapped :
    (after (.regRd 0x066#12) State.reset).ret = some (.reg 0#32) := by decide

theorem test_regWrCtrl_refused :
    readOffset (after (.regWrCtrl true false) State.reset) 0x004#12 = 0x00000100#32 ∧
      (after (.regWrCtrl true false) State.reset).run.ctrl = 0#32 := by decide

theorem test_regWrCtrl_granted :
    readOffset (after (.regWrCtrl true false) (stopped 0#32)) 0x004#12 = 0x00000004#32 ∧
      (after (.regWrCtrl true false) (stopped 0#32)).run.ctrl = 1#32 := by decide

theorem test_regWrCtrl_drains :
    readOffset (after (.regWrCtrl false false) (inFrame 3#32)) 0x004#12 = 0x00000054#32 := by decide

theorem test_devErr :
    readOffset (after .devErr (inFrame 3#32)) 0x004#12 = 0x00000200#32 ∧ (after .devErr (inFrame 3#32)).run.ctrl = 0#32 := by decide

theorem test_posIdx :
    (after (.posIdx 3#32) State.reset).pos = ⟨3#32, 0#32⟩ := by decide

theorem test_posMs :
    (after (.posMs 7#32) State.reset).pos = ⟨0#32, 7#32⟩ := by decide

theorem test_reservedKind :
    exec (.reservedKind 3#3 0#12 0#32) State.reset = .refused (.reservedKind 0xB#4) := rfl

theorem test_startEmit :
    (after .startEmit (stopped 0#32)).run.runEmit = true ∧ (after .startEmit (inFrame 0#32)).mod = .reset := by decide

theorem test_emitStop :
    (after .emitStop (inFrame 0#32)).run.runEmit = false ∧ (after .emitStop (inFrame 0#32)).mod = .reset := by decide

theorem test_startRecv_clears_statistics :
    (after .startRecv ((stopped 0#32).putStat ⟨1, 2, 3, 4⟩)).stat = ⟨0, 0, 0, 0⟩ := by decide

theorem test_stopRecv_keeps_statistics :
    (after .stopRecv ((receiving 0#32).putStat ⟨1, 2, 3, 4⟩)).stat = ⟨1, 2, 3, 4⟩ := by decide

/-! ## Emit path -/

theorem test_modCell_44100 :
    ((List.range 8).map fun i => (modCell^[i + 1] ((stopped 3#32).putCreg { (stopped 3#32).creg with srate := 44100#32 })).mod.mlen) =
      [18#32, 18#32, 19#32, 18#32, 18#32, 19#32, 18#32, 19#32] := by decide

theorem test_emitNext_jams :
    (after .emitNext (((emitting 7#32).putTb ⟨300#22, true, 0#40⟩).putPos ⟨3#32, 0#32⟩)).tb.cnt = 324000#22 ∧
      (decodeFrame (after .emitNext (((emitting 7#32).putTb ⟨300#22, true, 0#40⟩).putPos ⟨3#32, 0#32⟩)).mod.mbits 30).toOption.map
        frameLabel = some ⟨3, 0, 0, 0⟩ := by decide

theorem test_emitNext_free_runs :
    (after .emitNext (((emitting 3#32).putTb ⟨300#22, true, 0#40⟩).putPos ⟨0#32, 10000#32⟩)).tb.cnt = 301#22 := by decide

theorem test_smpOut_idle :
    (after .smpOut (stopped 0#32)).ret = some (.sample 0#16) := by decide

theorem test_smpOut_midpoint :
    (after .smpOut ((inFrame 3#32).putMod { (inFrame 3#32).mod with mpos := 10#32 })).mod.mlvl = false ∧
      (after .smpOut (inFrame 3#32)).mod.mlvl = true ∧ (after .smpOut (inFrame 3#32)).mod.mpos = 4#32 := by decide

/-! ## Receive path -/

theorem test_smpIn_ignored :
    after (.smpIn 5#16) (stopped 3#32) = stopped 3#32 := by decide

theorem test_smpIn_first_edge :
    (after (.smpIn 0x4000#16) (receiving 3#32)).dem = ⟨0x4000#16, 0#16, true, 0#32, true, false⟩ := by decide

theorem test_rxTickgen :
    (after .rxTickgen ((receiving 3#32).putTb ⟨0#22, false, 47970#40⟩)).tb = ⟨1#22, false, 0#40⟩ ∧
      (after .rxTickgen ((receiving 3#32).putTb ⟨0#22, false, 47969#40⟩)).tb = ⟨0#22, false, 47999#40⟩ := by decide

theorem test_demodEdge_rise :
    (after (.demodEdge 0x4000#16) (receiving 3#32)).dem = ⟨0x4000#16, 0#16, true, 0#32, false, false⟩ := by decide

theorem test_demodEdge_fall :
    (after (.demodEdge 0xC000#16) ((receiving 3#32).putDem ⟨0x4000#16, 0#16, true, 1#32, true, false⟩)).dem =
      ⟨16320#16, 0xC000#16, false, 1#32, true, false⟩ := by decide

theorem test_demodCls :
    (after (.demodCls 12#32) (receiving 3#32)).dem.half = true ∧ (after (.demodCls 13#32) (receiving 3#32)) = receiving 3#32 := by decide

theorem test_demodCls_long :
    (after (.demodCls 18#32) (receiving 3#32)).fbd = ⟨0#80, 1#7⟩ ∧ (after (.demodCls 23#32) (receiving 3#32)).fbd = ⟨0#80, 0#7⟩ := by decide

theorem test_fbdShift_frame :
    (after (.fbdShift true) ((receiving 3#32).putFbd ⟨0xBFFC0001000200030004#80 <<< 1, 79#7⟩)).stat.rxtime = 0x01020304#32 := by decide

theorem test_fbdShift_realign :
    (after (.fbdShift true) ((receiving 3#32).putFbd ⟨0xBFFC0001000200030004#80 <<< 1, 40#7⟩)).fbd =
      ⟨0xBFFC0001000200030004#80, 0#7⟩ := by decide

theorem test_rxDec_frame :
    (after .rxDec ((receiving 3#32).putFbd ⟨0xBFFC0001000200030004#80, 80#7⟩)).se.lock = .acquiring := by decide

theorem test_rxDec_error :
    (after .rxDec ((receiving 0#32).putFbd ⟨0xBFFC0001000200030204#80, 80#7⟩)).err.lastferr = 3#2 := by decide

theorem test_seFrame_locks :
    (after (.seFrame frame1234) (following .acquiring 0#22 111693#22)).se.lock = .locked ∧
      (after (.seFrame frame1234) (following .acquiring 0#22 111692#22)).se.lock = .acquiring := by decide

theorem test_seEval_smooth :
    (after (.seEval 1000#22) (following .locked 1030#22 0#22)).records = [.corr .smooth 0#32 33334#32] := by decide

theorem test_seEval_jam :
    (after (.seEval 1000#22) (following .locked 1031#22 0#22)).records = [.corr .jam 0#32 33334#32] ∧
      after (.seEval 1000#22) (following .locked 1001#22 0#22) = following .locked 1001#22 0#22 := by decide

theorem test_seFerr :
    (after (.seFerr .invalidBCD) (following .acquiring 0#22 5#22)).se.prevv = false ∧
      (after (.seFerr .invalidBCD) (following .locked 0#22 5#22)).se.prevv = true := by decide

theorem test_seTick_lost :
    (after .seTick ((following .locked 5#22 5#22).putSe ⟨.locked, 5#22, true, 60#32⟩)).se = ⟨.lost, 5#22, true, 0#32⟩ := by decide

theorem test_seTick_midnight :
    (after .seTick (following .locked 2591999#22 5#22)).tb.cnt = 0#22 := by decide

theorem test_ltcFrame :
    (after (.ltcFrame (ltcFields 0xBFFC0001000200030004#80)) (receiving 3#32)).stat.rxtime = 0x01020304#32 := by decide +kernel

/-! ## Witnesses: states and operands that meet the hypotheses of each statement, at the boundaries of its clauses -/

theorem test_witness_DecodeOfEncodeIsTheInstruction :
    (Instr.regWr 0xFFF#12 5#32).wf = true ∧ (encode (.regWr 0xFFF#12 5#32)).isSome = true := by decide

theorem test_witness_DecodedInstructionsAreCanonical :
    decode (.stim 0xF00000000000#48) = .ok (.reservedKind 7#3 0#12 0#32) := rfl

theorem test_witness_StepRunsTheDecodedEvent :
    ((State.reset).putEvents [0x400000000000#48]).events = 0x400000000000#48 :: [] ∧ State.reset.events = [] := by decide

theorem test_witness_PlacedWordIsRunByTheNextStep :
    decodeFrame 0xBFFC0001000200030004#80 (rateFn State.reset.rate) = .ok frame1234 ∧
      decodeFrame 0#80 (rateFn State.reset.rate) = .error .badSyncWord := ⟨rfl, rfl⟩

theorem test_witness_OnlyReservedKindsStop :
    (0x800000000000#48).getLsbD 47 = true ∧ (0x7FFFFFFFFFFF#48).getLsbD 47 = false := by decide

theorem test_witness_RegisterWriteFollowsItsOrder :
    (0x64 < (0x065#12 : Offset).toNat ∨ (0x065#12 : Offset).toNat % 4 ≠ 0) ∧
      (0x64 < (0x001#12 : Offset).toNat ∨ (0x001#12 : Offset).toNat % 4 ≠ 0) ∧
      (0x50 ≤ (0x050#12 : Offset).toNat ∧ (0x050#12 : Offset).toNat ≤ 0x64) ∧
      (0x50 ≤ (0x064#12 : Offset).toNat ∧ (0x064#12 : Offset).toNat ≤ 0x64) ∧
      (0x08 ≤ (0x008#12 : Offset).toNat ∧ (0x008#12 : Offset).toNat ≤ 0x24 ∧ (receiving 3#32).run.runRecv = true) ∧
      (0x08 ≤ (0x024#12 : Offset).toNat ∧ (0x024#12 : Offset).toNat ≤ 0x24 ∧ (emitting 3#32).run.runEmit = true) ∧
      ((0x024#12 : Offset).toNat % 4 = 0 ∧ (stopped 3#32).run.runEmit = false ∧ (stopped 3#32).run.runRecv = false) ∧
      (0x28 ≤ (0x028#12 : Offset).toNat ∧ (0x038#12 : Offset).toNat ≤ 0x38) ∧
      (0x44 ≤ (0x044#12 : Offset).toNat ∧ (0x04C#12 : Offset).toNat ≤ 0x4C) := by decide

theorem test_witness_RegisterWriteFollowsItsOrder_outcomes :
    after (.regWr 0x065#12 7#32) (stopped 3#32) = stopped 3#32 ∧ after (.regWr 0x064#12 7#32) (stopped 3#32) = stopped 3#32 ∧
      (after (.regWr 0x024#12 0x12345#32) (stopped 3#32)).creg.ubits = 0x2345#32 ∧
      (after (.regWr 0x04C#12 7#32) (receiving 3#32)).ops.cntop = 7#32 := by decide

theorem test_witness_RunningPathLocksTheConfiguration :
    ∃ t, step ((receiving 3#32).putEvents [0x000000000000#48]) = .next t ∧
      ((receiving 3#32).putEvents [0x000000000000#48]).running = true ∧ t.creg ≠ (receiving 3#32).creg := ⟨_, rfl, rfl, by decide⟩

theorem test_witness_ReservedOpcodesOnlySetCmderr :
    0x0B ≤ (0x0B#8 : BitVec 8).toNat ∧ 0x0B ≤ (0xFF#8 : BitVec 8).toNat := by decide

theorem test_witness_CommandsNeverDisturbAPath :
    (0x09#8 : BitVec 8) ≠ 0x0A#8 ∧ (0x01#8 : BitVec 8) ≠ 0x0A#8 ∧ (0x01#8 : BitVec 8) ≠ 0x09#8 := by decide

theorem test_witness_StreamingNeverTouchesTheOperands :
    ∃ t, exec (.smpIn 5#16) (receiving 3#32) = .next t := ⟨_, rfl⟩

theorem test_witness_EncPacksTheFrame :
    unpackTime (timed 3#32 0x173B3B1D#32).ops.fldTime = ⟨23, 59, 59, 29⟩ ∧ rateFn (timed 3#32 0x173B3B1D#32).rate = 30 ∧
      unpackTime (timed 3#32 0x0000001E#32).ops.fldTime = ⟨0, 0, 0, 30⟩ := by decide

theorem test_witness_DecReportsTheFrameOrTheFirstError :
    (after .dec (stopped 3#32)).result = 1#32 ∧
      (after .dec ((stopped 3#32).putOps ⟨0, 0, 0x0000000A#32, 0#32, 0xBFFC#32, 0, 0, 0⟩)).result = 0x102#32 ∧
      (after .dec ((stopped 3#32).putOps ⟨0, 0, 0x00000300#32, 0#32, 0xBFFC#32, 0, 0, 0⟩)).result = 0x103#32 ∧
      (after .dec ((stopped 3#32).putOps ⟨0, 0, 0x00000209#32, 0#32, 0xBFFC#32, 0, 0, 0⟩)).result = 0x100#32 := by decide

theorem test_witness_SyncchkComparesTheSyncWord :
    ((stopped 0#32).putOps { State.reset.ops with fb2 := 0xBFFC#32 }).ops.fb2.extractLsb' 0 16 = 0xBFFC#16 ∧
      ((stopped 0#32).putOps { State.reset.ops with fb2 := 0x3FFD#32 }).ops.fb2.extractLsb' 0 16 ≠ 0xBFFC#16 := by decide

theorem test_witness_FrameRoundTrip :
    inrange ⟨23, 59, 59, 29⟩ (rateFn .fps30) = true ∧
      decodeFrame 0xBFFC0001000200030004#80 (rateFn .fps30) = .ok frame1234 := ⟨rfl, rfl⟩

theorem test_witness_UnassignedFrameBitsAreIgnored :
    0xBFFC0001000200030004#80 &&& carriedBits = (0xBFFC0001000200030004#80 ||| 1#80 <<< 27) &&& carriedBits ∧
      0xBFFC0001000200030004#80 ≠ (0xBFFC0001000200030004#80 ||| 1#80 <<< 27) := by decide

theorem test_witness_CountIsThePositionAmongValidLabels :
    ValidLabel .fps2997 ⟨0, 0, 59, 29⟩ ∧ ValidLabel .fps2997 ⟨0, 1, 0, 2⟩ ∧ Label.before ⟨0, 0, 59, 29⟩ ⟨0, 1, 0, 2⟩ ∧
      2589407 < rateDay .fps2997 := by decide

theorem test_witness_SuccessorIsTheCounterRule :
    ValidLabel .fps2997 ⟨23, 59, 59, 29⟩ ∧ counterNext .fps2997 ⟨23, 59, 59, 29⟩ = ⟨0, 0, 0, 0⟩ := by decide

theorem test_witness_DroppedLabelsAlias :
    DroppedLabel .fps2997 ⟨23, 59, 0, 0⟩ ∧ DroppedLabel .fps2997 ⟨0, 1, 0, 1⟩ := by decide

theorem test_witness_Lbl2cntWritesTheCount :
    unpackTime (timed 2#32 0x173B3B1D#32).ops.fldTime = ⟨23, 59, 59, 29⟩ ∧ rateFn (timed 2#32 0x173B3B1D#32).rate = 30 ∧
      unpackTime (timed 2#32 0x18000000#32).ops.fldTime = ⟨24, 0, 0, 0⟩ := by decide

theorem test_witness_Cnt2lblWritesTheValidLabel :
    ((stopped 2#32).putOps { State.reset.ops with cntop := 2589407#32 }).ops.cntop.toNat < rateDay (stopped 2#32).rate ∧
      rateDay (stopped 2#32).rate ≤ ((stopped 2#32).putOps { State.reset.ops with cntop := 2589408#32 }).ops.cntop.toNat := by decide

theorem test_witness_InclblWritesTheSuccessor :
    inrange (unpackTime (timed 2#32 0x00003B1D#32).ops.fldTime) (rateFn (timed 2#32 0x00003B1D#32).rate) = true ∧
      ValidLabel (timed 2#32 0x00003B1D#32).rate (unpackTime (timed 2#32 0x00003B1D#32).ops.fldTime) ∧
      inrange (unpackTime (timed 2#32 0x0000001E#32).ops.fldTime) (rateFn (timed 2#32 0x0000001E#32).rate) = false := by decide

theorem test_witness_PositionOfACountIsItsEarliestMillisecond :
    2589407 < rateDay .fps2997 ∧ 1 < (countPos .fps2997 true 2589407).2 := by decide

theorem test_witness_TofrmBuildsTheFrame :
    0 = ((stopped 2#32).ops.posms.toNat * rateNum (stopped 2#32).rate) / (1000 * rateDen (stopped 2#32).rate) := by decide

theorem test_witness_ToposWritesThePosition :
    2589407 = labelCount (timed 2#32 0x173B3B1D#32).rate (unpackTime (timed 2#32 0x173B3B1D#32).ops.fldTime) ∧
      inrange (unpackTime (timed 2#32 0x173B3B1D#32).ops.fldTime) (rateFn (timed 2#32 0x173B3B1D#32).rate) = true ∧
      inrange (unpackTime (timed 2#32 0x173B3C1D#32).ops.fldTime) (rateFn (timed 2#32 0x173B3C1D#32).rate) = false := by decide

theorem test_witness_ToposThenTofrmRestoresTheLabel :
    ValidLabel (timed 6#32 0x173B3B1D#32).rate (unpackTime (timed 6#32 0x173B3B1D#32).ops.fldTime) := by decide

theorem test_witness_ControlWriteGrantsAndRefuses :
    RunStateLegal (stopped 3#32) ∧ RunStateLegal (emitting 3#32) ∧
      RunStateLegal ((emitting 3#32).putRun ⟨0#32, true, false⟩) ∧ RunStateLegal (receiving 3#32) ∧
      true = decide (640 * rateNum (stopped 3#32).rate ≤ (stopped 3#32).creg.srate.toNat * rateDen (stopped 3#32).rate) := ⟨by decide, by decide, by decide, by decide, by decide⟩

theorem test_witness_DrainSendsTheFrameUnchanged :
    (inFrame 3#32).run.runEmit = true ∧ (inFrame 3#32).mod.mact = true := by decide

theorem test_witness_CellLengthsNeverDrift :
    (stopped 3#32).mod.macc = 0 := by decide

theorem test_witness_IdleOutputIsZero :
    (stopped 3#32).run.runEmit = false ∧ ((emitting 3#32).putRun ⟨0#32, true, false⟩).run.runEmit = true ∧
      ((emitting 3#32).putRun ⟨0#32, true, false⟩).mod.mact = false ∧
      ((emitting 3#32).putRun ⟨0#32, true, false⟩).enOut = false := by decide

theorem test_witness_BoundarySampleLoadsTheNextFrame :
    (emitting 3#32).run.runEmit = true ∧ (emitting 3#32).mod.mact = false ∧ (emitting 3#32).enOut = true := by decide

theorem test_witness_SampleFollowsTheBiphaseLaw :
    (inFrame 3#32).run.runEmit = true ∧ (inFrame 3#32).mod.mact = true ∧ (inFrame 3#32).mod.mpos ≠ 0 ∧
      ((inFrame 3#32).putMod { (inFrame 3#32).mod with mpos := 19#32 }).mod.mpos + 1 = (inFrame 3#32).mod.mlen ∧
      (inFrame 3#32).mod.mbit ≠ 79#7 ∧ ((inFrame 3#32).putMod { (inFrame 3#32).mod with mbit := 79#7 }).mod.mbit = 79#7 ∧
      ((inFrame 3#32).putMod { (inFrame 3#32).mod with mpos := 0#32 }).mod.mpos = 0 := by decide

theorem test_witness_EmitNextFreeRunsOrJams :
    (emitting 3#32).tb.tbvalid = false ∧
      0 = posCount (emitting 3#32).rate (emitting 3#32).hidx (emitting 3#32).pos.idx.toNat (emitting 3#32).pos.ms.toNat ∧
      1 = ((emitting 3#32).tb.cnt.toNat + 1) % rateDay (emitting 3#32).rate ∧
      ((0 : Int) - 1).natAbs ≤ (emitting 3#32).creg.emittol.toNat ∧
      (emitting 3#32).creg.emittol.toNat < ((0 : Int) - 2).natAbs ∧
      ((emitting 3#32).putTb ⟨1#22, true, 0#40⟩).tb.tbvalid = true := by decide

theorem test_witness_SampleInputFollowsItsOrder :
    (stopped 3#32).run.runRecv = false ∧ (receiving 3#32).run.runRecv = true ∧
      (after (.demodEdge 0x4000#16) (receiving 3#32)).dem.dlvl ≠ (receiving 3#32).dem.dlvl ∧
      (after (.demodEdge 0#16) (receiving 3#32)).dem.dlvl = (receiving 3#32).dem.dlvl ∧
      (receiving 3#32).dem.tmrv = false := by decide

theorem test_witness_TickFallsOncePerFramePeriod :
    ((receiving 3#32).putTb ⟨0#22, false, 47999#40⟩).tb.rxtacc.toNat <
        (receiving 3#32).creg.srate.toNat * rateDen (receiving 3#32).rate ∧
      (receiving 3#32).creg.srate.toNat * rateDen (receiving 3#32).rate ≤ 47970 + rateNum (receiving 3#32).rate ∧
      47969 + rateNum (receiving 3#32).rate < (receiving 3#32).creg.srate.toNat * rateDen (receiving 3#32).rate := by decide

theorem test_witness_EdgeDetectorFollowsTheEnvelope :
    EnvelopeOrdered ((receiving 3#32).putDem ⟨0x4000#16, 0xC000#16, true, 0#32, true, false⟩) ∧
      EnvelopeOrdered (receiving 3#32) ∧ (0 : Int) = (receiving 3#32).dem.ehi.toInt - (receiving 3#32).dem.elo.toInt := by decide

theorem test_witness_LevelChangesAreEdges :
    EnvelopeOrdered (receiving 3#32) ∧ (receiving 3#32).dem.dlvl = false ∧ (receiving 3#32).dem.ehi.toInt ≤ 2 ∧
      (receiving 3#32).dem.elo.toInt ≤ 0 ∧ (0 : Int) + 2 ≤ 2 ∧ (2#16 : Sample).toInt = 2 ∧
      (after (.demodEdge 2#16) (receiving 3#32)).dem.dlvl = true := by decide

/-- High, with the trackers at `hi` and `lo`. -/
def high (hi lo : Sample) : State := (receiving 3#32).putDem ⟨hi, lo, true, 0#32, true, false⟩

theorem test_witness_LevelChangesAreEdges_falls :
    EnvelopeOrdered (high 3#16 0#16) ∧ EnvelopeOrdered (high 2#16 0#16) ∧ EnvelopeOrdered (high 2#16 2#16) ∧
      (0 : Int) ≤ (high 3#16 0#16).dem.elo.toInt ∧ (3 : Int) ≤ (high 3#16 0#16).dem.ehi.toInt ∧
      (after (.demodEdge 0#16) (high 3#16 0#16)).dem.dlvl = false ∧
      (high 2#16 2#16).dem.elo.toInt = 2 ∧ (after (.demodEdge 0#16) (high 2#16 2#16)).dem.dlvl = false ∧
      (high 2#16 1#16).dem.ehi.toInt = 2 ∧ (after (.demodEdge 0#16) (high 2#16 1#16)).dem.dlvl = true ∧
      (after (.demodEdge 0#16) (high 2#16 0#16)).dem.dlvl = true := by decide

theorem test_witness_LevelChangesAreEdges_no_edges :
    (high 2#16 0#16).dem.dlvl = true ∧ (high 2#16 0#16).dem.ehi.toInt ≤ (2#16 : Sample).toInt ∧
      (after (.demodEdge 2#16) (high 2#16 0#16)).dem.dlvl = true ∧
      (receiving 3#32).dem.dlvl = false ∧ (0#16 : Sample).toInt ≤ (receiving 3#32).dem.elo.toInt ∧
      (after (.demodEdge 0#16) (receiving 3#32)).dem.dlvl = false := by decide

theorem test_witness_IntervalsAreClassified :
    (3 * 48000 ≤ 640 * 30 * 8 ∧ 640 * 30 * 12 ≤ 5 * 48000) ∧ (7 * 48000 ≤ 640 * 30 * 18 ∧ 640 * 30 * 22 ≤ 9 * 48000) ∧
      ¬(3 * 48000 ≤ 640 * 30 * 7) ∧ ¬(640 * 30 * 13 ≤ 5 * 48000) ∧ ¬(640 * 30 * 23 ≤ 9 * 48000) ∧
      48000 = (receiving 3#32).creg.srate.toNat * rateDen (receiving 3#32).rate ∧ rateNum (receiving 3#32).rate = 30 := by decide

theorem test_witness_ModulatorIntervalsAreRecognised :
    (stopped 3#32).cfgOk = true ∧ (stopped 3#32).mod.macc.toNat < (stopped 3#32).rateB ∧ (modCell (stopped 3#32)).mod.mlen = 20#32 := by decide

theorem test_witness_ShiftFindsTheFrameBoundary :
    ((receiving 3#32).putFbd ⟨0#80, 79#7⟩).fbd.rxcnt.toNat < 80 ∧
      (shiftIn true (0xBFFC0001000200030004#80 <<< 1)).extractLsb' 64 16 = 0xBFFC#16 ∧
      (shiftIn true 0#80).extractLsb' 64 16 ≠ 0xBFFC#16 := by decide

theorem test_witness_CandidateGoesToTheSyncEngine :
    decodeFrame 0xBFFC0001000200030004#80 (rateFn (receiving 3#32).rate) = .ok frame1234 ∧
      decodeFrame 0xBFFC000100020003000A#80 (rateFn (receiving 3#32).rate) = .error .invalidBCD := ⟨rfl, rfl⟩

theorem test_witness_ReceivedFrameFillsTheShiftRegister :
    (receiving 3#32).run.runRecv = true ∧ (stopped 3#32).run.runRecv = false ∧
      (receiving 3#32).fbd.rxcnt = 0 ∧ (receiving 3#32).fbd.rxsr = 0 ∧
      ((receiving 3#32).putFbd ⟨0xBFFC0001000200030003#80, 0#7⟩).fbd.rxsr.extractLsb' 64 16 = 0xBFFC#16 ∧
      decodeFrame (ltcBits (ltcFields 0xBFFC0001000200030004#80)) (rateFn (receiving 3#32).rate) = .ok frame1234 := ⟨by decide, by decide, by decide, by decide, by decide, rfl⟩

theorem test_witness_ReceivedFrameFillsTheShiftRegister_quiet :
    ∀ k, 0 < k → k < 80 →
      (((0 : FrameBits) >>> k) ||| (ltcBits (ltcFields 0xBFFC000A0000000F000F#80) <<< (80 - k))).extractLsb' 64 16 ≠ 0xBFFC#16 := by
  have h : ∀ k : Fin 80, 0 < k.val →
      (((0 : FrameBits) >>> k.val) ||| (ltcBits (ltcFields 0xBFFC000A0000000F000F#80) <<< (80 - k.val))).extractLsb' 64 16 ≠
        0xBFFC#16 := by decide +kernel
  exact fun k h0 hk => h ⟨k, hk⟩ h0

theorem test_witness_ValidFrameDrivesTheLock :
    frame1234.wf = true ∧ 111694 = labelCount (following .acquiring 0#22 111693#22).rate (frameLabel frame1234) ∧
      (111694 = ((following .acquiring 0#22 111693#22).se.prevcnt.toNat + 1) % rateDay (following .acquiring 0#22 0#22).rate) ∧
      ¬(111694 = ((following .acquiring 0#22 111694#22).se.prevcnt.toNat + 1) % rateDay (following .acquiring 0#22 0#22).rate) := by decide

theorem test_witness_DriftPolicyIsApplied :
    30 = (((following .locked 1030#22 0#22).tb.cnt.toNat : Int) - (1000#22 : BitVec 22).toNat).natAbs ∧
      (following .locked 1030#22 0#22).creg.smallthr.toNat = 1 ∧
      (1000 * rateNum (following .locked 0#22 0#22).rate) / (1000 * rateDen (following .locked 0#22 0#22).rate) = 30 ∧
      (after (.seEval 1000#22) ((following .locked 1031#22 0#22).putCreg { (stopped 3#32).creg with exthr := 1000#32 })).err.cfgerr = true ∧
      (after (.seEval 1000#22) ((following .locked 1030#22 0#22).putCreg { (stopped 3#32).creg with exthr := 1000#32 })).err.cfgerr = false := by decide

theorem test_witness_TickCountsAndTimesOut :
    61 = min (((following .locked 0#22 0#22).putSe ⟨.locked, 0#22, true, 60#32⟩).se.gap.toNat + 1) 0xFFFFFFFF ∧
      60 = ((following .locked 0#22 0#22).creg.failthr.toNat * rateNum (following .locked 0#22 0#22).rate) /
        (1000 * rateDen (following .locked 0#22 0#22).rate) := by decide

theorem test_witness_EveryStepKeepsTheStateSound :
    SoundState ((receiving 3#32).putEvents [0x300000004000#48]) ∧
      ∃ t, step ((receiving 3#32).putEvents [0x300000004000#48]) = .next t := ⟨by decide, _, rfl⟩

theorem test_witness_LockNeedsAConsecutivePair :
    ∃ t, step ((following .acquiring 0#22 111693#22).withFetchWord 80 0xBFFC0001000200030004) = .next t ∧
      t.se.lock = .locked ∧ (following .acquiring 0#22 111693#22).se.lock ≠ .locked := ⟨_, rfl, by decide +kernel, by decide⟩

theorem test_witness_LostOnlyAfterTheFailureThreshold :
    ∃ t, step ((((following .locked 5#22 5#22).putSe ⟨.locked, 5#22, true, 60#32⟩).putTb ⟨5#22, true, 47970#40⟩).putEvents [0x300000000000#48]) = .next t ∧
      t.se.lock = .lost := ⟨_, rfl, by decide +kernel⟩

theorem test_witness_CorrectionsOnlyWhileLocked :
    ∃ t, step ((following .acquiring 0#22 111693#22).withFetchWord 80 0xBFFC0001000200030004) = .next t ∧
      t.records ≠ ((following .acquiring 0#22 111693#22).withFetchWord 80 0xBFFC0001000200030004).records := ⟨_, rfl, by decide +kernel⟩

end Sys2Proof.Tests
end

namespace Sys2Proof.Proofs

open Sys2Proof.Machine

/-! The scope of the core (spec/00_scope.md): one step handles one interface event (R5). -/

/-- Every stimulus word reads as an instruction: the reserved kinds too have a row of their own (30 R125). -/
@[simp] theorem decode_stim (w : Stim) : decode (.stim w) = .ok (decodeStim w) := rfl

/-- Settles O5, by the two cases of the event list: `step_cons` with a word waiting, `step_nil` with none. -/
theorem stepRunsTheDecodedEvent : Obligations.StepRunsTheDecodedEvent := by
  unfold Obligations.StepRunsTheDecodedEvent
  constructor
  · intro s w rest hwaiting
    exact ⟨decodeStim w, decode_stim w, step_cons hwaiting⟩
  · intro s hempty
    exact step_nil hempty

end Sys2Proof.Proofs

namespace Sys2Proof.Proofs

open Sys2Proof.Machine

/-! The state of the core (spec/10_state.md): what one event can do, and what every event keeps. -/

/-! ### What an event can do -/

/-- What the event in a stimulus word makes of a state: one line for each row of 30 R125 that is an event.
A plain `REG.WR` is never at the offsets of `CTRL` and `CMD`, which have rows of their own. -/
inductive EventResult (s : State) : Instr → State → Prop
  | rst : EventResult s .rst (resetCore s)
  | regWr {a : Offset} (d : Reg32) (hctrl : a ≠ 0x000#12) (hcmd : a ≠ 0x03C#12) :
      EventResult s (.regWr a d) (writeOffset a d s)
  | regWrCtrl (eo ei : Bool) : EventResult s (.regWrCtrl eo ei) (ctrlWrite eo ei s)
  | regWrCmd (op : BitVec 8) : EventResult s (.regWrCmd op) (runCommand op s)
  | regRd (a : Offset) : EventResult s (.regRd a) (s.putRet (some (.reg (readOffset s a))))
  | smpIn (x : Sample) : EventResult s (.smpIn x) (smpIn x s)
  | smpOut : EventResult s .smpOut (smpOut s)
  | posIdx (v : Reg32) : EventResult s (.posIdx v) (s.putPos { s.pos with idx := v })
  | posMs (v : Reg32) : EventResult s (.posMs v) (s.putPos { s.pos with ms := v })
  | devErr : EventResult s .devErr (devErr s)

/-- The next states of the decoded events, by the rows of the decoder. -/
theorem eventResult_of_exec {w : Stim} {s t : State} (h : exec (decodeStim w) s = .next t) :
    EventResult s (decodeStim w) t := by
  unfold decodeStim at h ⊢
  dsimp only at h ⊢
  split at h
  · cases h; exact .rst
  · split_ifs at h ⊢
    · cases h; exact .regWrCtrl _ _
    · cases h; exact .regWrCmd _
    · cases h; exact .regWr _ ‹_› ‹_›
  · cases h; exact .regRd _
  · cases h; exact .smpIn _
  · cases h; exact .smpOut
  · cases h; exact .posIdx _
  · cases h; exact .posMs _
  · cases h; exact .devErr
  · cases h

/-- A step idles, or handles the event that waits longest with nothing returned yet. -/
theorem eventResult_of_step {s t : State} (h : step s = .next t) :
    t = s ∨ ∃ w rest, s.events = w :: rest ∧
      EventResult { s with events := rest, ret := none } (decodeStim w) t := by
  rcases step_cases h with ⟨-, ht⟩ | ⟨w, rest, hw, hx⟩
  · exact .inl ht
  · exact .inr ⟨w, rest, hw, eventResult_of_exec hx⟩

/-- An offset other than those of `CTRL` and `CMD`, and what a plain write at it does (46 R321): nothing, or the
store of one register, which a running path forbids for the configuration. -/
theorem writeOffset_plain {a : Offset} (d : Reg32) (s : State) (hctrl : a ≠ 0x000#12) (hcmd : a ≠ 0x03C#12) :
    writeOffset a d s = s ∨
    ∃ r, (regLocked r = true → s.running = false) ∧ writeOffset a d s = storeReg s r d := by
  rcases writeOffset_cases a d s with ⟨-, h⟩ | ⟨h, -⟩ | ⟨h, -⟩ | ⟨r, -, -, -, h⟩
  · exact .inl h
  · exact absurd (offset_of_regOfOffset h) hctrl
  · exact absurd (offset_of_regOfOffset h) hcmd
  · cases hl : regLocked r && s.running with
    | true => exact .inl (by rw [h, if_pos hl])
    | false =>
      refine .inr ⟨r, fun hr => ?_, by rw [h, hl]; rfl⟩
      rw [hr, Bool.true_and] at hl
      exact hl

/-! ### What the streams leave alone -/

/-- The operand registers, `RESULT` and the configuration registers read as before. -/
structure KeepsHostRegisters (s t : State) : Prop where
  ops : t.ops = s.ops
  result : t.result = s.result
  creg : t.creg = s.creg

theorem keepsHostRegisters_of_candidateFrame {s t : State} (h : CandidateFrame s t) : KeepsHostRegisters s t :=
  ⟨h.ops, h.result, h.creg⟩

theorem smpIn_keepsHostRegisters (x : Sample) (s : State) : KeepsHostRegisters s (smpIn x s) := by
  obtain ⟨-, hcreg, hops, hresult, -⟩ := smpIn_frame x s
  exact ⟨hops, hresult, hcreg⟩

theorem devErr_keepsHostRegisters (s : State) : KeepsHostRegisters s (devErr s) := by
  obtain ⟨hcreg, hops, hresult, -⟩ := devErr_frame s
  exact ⟨hops, hresult, hcreg⟩

theorem emitSample_keepsHostRegisters (s : State) : KeepsHostRegisters s (emitSample s) := by
  obtain ⟨m, h⟩ := emitSample_eq s
  rw [h]
  exact ⟨rfl, rfl, rfl⟩

theorem smpOut_keepsHostRegisters (s : State) : KeepsHostRegisters s (smpOut s) := by
  rcases smpOut_cases s with ⟨-, h⟩ | ⟨-, -, h⟩ | ⟨-, -, -, h⟩ | ⟨-, -, -, h⟩ <;> rw [h]
  · exact ⟨rfl, rfl, rfl⟩
  · exact emitSample_keepsHostRegisters s
  · exact ⟨rfl, rfl, rfl⟩
  · obtain ⟨hops, hresult, hcreg⟩ := emitSample_keepsHostRegisters (emitNext s)
    exact ⟨hops, hresult, hcreg⟩

theorem rxTickgen_keepsHostRegisters (s : State) : KeepsHostRegisters s (rxTickgen s) := by
  obtain ⟨_, _, _, _, h⟩ := rxTickgen_eq s
  rw [h]
  exact ⟨rfl, rfl, rfl⟩

theorem demodCls_keepsHostRegisters (d : Reg32) (s : State) : KeepsHostRegisters s (demodCls d s) := by
  obtain ⟨_, h⟩ := demodCls_frame d s
  exact ⟨h.ops, h.result, h.creg⟩

theorem seFrame_keepsHostRegisters (f : LtcFrame) (s : State) : KeepsHostRegisters s (seFrame f s) := by
  obtain ⟨_, _, _, _, _, h⟩ := seFrame_eq f s
  rw [h]
  exact ⟨rfl, rfl, rfl⟩

theorem seEval_keepsHostRegisters (c : Nat) (s : State) : KeepsHostRegisters s (seEval c s) := by
  obtain ⟨_, _, _, _, _, h⟩ := seEval_eq c s
  rw [h]
  exact ⟨rfl, rfl, rfl⟩

theorem seFerr_keepsHostRegisters (e : FrameError) (s : State) : KeepsHostRegisters s (seFerr e s) := by
  obtain ⟨_, h⟩ := seFerr_eq e s
  rw [h]
  exact ⟨rfl, rfl, rfl⟩

theorem seTick_keepsHostRegisters (s : State) : KeepsHostRegisters s (seTick s) := by
  obtain ⟨_, _, h⟩ := seTick_eq s
  rw [h]
  exact ⟨rfl, rfl, rfl⟩

/-- Settles O16, by the frame of each of the sixteen operations. -/
theorem streamingNeverTouchesTheOperands : Obligations.StreamingNeverTouchesTheOperands := by
  unfold Obligations.StreamingNeverTouchesTheOperands
  intro i s t hi hnext
  suffices h : KeepsHostRegisters s t from ⟨h.ops, h.result, h.creg⟩
  rcases hi with ⟨x, rfl⟩ | rfl | ⟨v, rfl⟩ | ⟨v, rfl⟩ | rfl | rfl | rfl | rfl | ⟨x, rfl⟩ | ⟨d, rfl⟩ | ⟨b, rfl⟩ |
    rfl | ⟨f, rfl⟩ | ⟨c, rfl⟩ | ⟨e, rfl⟩ | rfl <;> cases hnext
  · exact smpIn_keepsHostRegisters x s
  · exact smpOut_keepsHostRegisters s
  · exact ⟨rfl, rfl, rfl⟩
  · exact ⟨rfl, rfl, rfl⟩
  · exact devErr_keepsHostRegisters s
  · rw [modCell_eq]; exact ⟨rfl, rfl, rfl⟩
  · rw [emitNext_eq]; exact ⟨rfl, rfl, rfl⟩
  · exact rxTickgen_keepsHostRegisters s
  · rw [demodEdge_eq]; exact ⟨rfl, rfl, rfl⟩
  · exact demodCls_keepsHostRegisters d s
  · exact keepsHostRegisters_of_candidateFrame (fbdShift_frame b s)
  · exact keepsHostRegisters_of_candidateFrame (rxDec_frame s).1
  · exact seFrame_keepsHostRegisters f s
  · exact seEval_keepsHostRegisters c.toNat s
  · exact seFerr_keepsHostRegisters e s
  · exact seTick_keepsHostRegisters s

/-! ### The locked configuration -/

/-- A command other than `SRESET` leaves the configuration as it is (46 R322). -/
theorem runCommand_creg (op : BitVec 8) (s : State) (h : op.toNat ≠ 0x0A) : (runCommand op s).creg = s.creg := by
  by_cases h9 : op.toNat = 0x09
  · rw [runCommand_clrerr op s h9, cmdClrerr_eq]
  · obtain ⟨o, r, heq⟩ := runCommand_eq op s h9 h
    rw [heq]

/-- While a path runs, a plain write leaves the configuration as it is (10 R47). -/
theorem writeOffset_creg_of_running {a : Offset} (d : Reg32) {s : State} (hctrl : a ≠ 0x000#12)
    (hcmd : a ≠ 0x03C#12) (hrun : s.running = true) : (writeOffset a d s).creg = s.creg := by
  rcases writeOffset_plain d s hctrl hcmd with h | ⟨r, hlock, h⟩
  · rw [h]
  · have hfree : regLocked r = false := by
      by_contra hl
      rw [hlock (by simpa using hl)] at hrun
      cases hrun
    rw [h, storeReg_creg_of_not_locked s r d hfree]

/-- While a path runs, the events that keep the configuration are all but the two resets. -/
theorem eventResult_creg_of_running {s t : State} {i : Instr} (h : EventResult s i t) (hrun : s.running = true) :
    t.creg = s.creg ∨ i = .rst ∨ i = .regWrCmd 0x0A#8 := by
  cases h with
  | rst => exact .inr (.inl rfl)
  | regWr d hctrl hcmd => exact .inl (writeOffset_creg_of_running d hctrl hcmd hrun)
  | regWrCtrl eo ei => exact .inl (ctrlWrite_frame eo ei s).1
  | regWrCmd op =>
    by_cases hA : op = 0x0A#8
    · exact .inr (.inr (by rw [hA]))
    · exact .inl (runCommand_creg op s fun h => hA (BitVec.eq_of_toNat_eq h))
  | regRd a => exact .inl rfl
  | smpIn x => exact .inl (smpIn_keepsHostRegisters x s).creg
  | smpOut => exact .inl (smpOut_keepsHostRegisters s).creg
  | posIdx v => exact .inl rfl
  | posMs v => exact .inl rfl
  | devErr => exact .inl (devErr_keepsHostRegisters s).creg

/-- Settles O12: a step that changes the configuration handles an event, and of the events only the resets do. -/
theorem runningPathLocksTheConfiguration : Obligations.RunningPathLocksTheConfiguration := by
  unfold Obligations.RunningPathLocksTheConfiguration
  intro s t hstep hrun hchange
  rcases eventResult_of_step hstep with rfl | ⟨w, rest, hw, hev⟩
  · exact absurd rfl hchange
  · rcases eventResult_creg_of_running hev hrun with hkeep | hreset
    · exact absurd hkeep hchange
    · exact ⟨w, rest, hw, hreset⟩

/-! ### The view `STATUS` -/

/-- The bits of `STATUS`, from bit 0 up (10 R25). -/
theorem status_getLsbD (s : State) (i : Nat) (hi : i < 32) :
    s.status.getLsbD i =
      if i < 2 then (lockCode s.se.lock).getLsbD i
      else if i = 2 then s.run.runEmit
      else if i = 3 then s.run.runRecv
      else if i = 4 then s.drain
      else if i = 5 then s.tb.tbvalid
      else if i = 6 then s.mod.mact
      else if i = 8 then s.err.cfgerr
      else if i = 9 then s.err.deverr
      else if 12 ≤ i then s.err.lastferr.getLsbD (i - 12) else false := by
  unfold State.status
  interval_cases i <;> simp

/-- A field of the view is given by its bits. -/
theorem status_field (s : State) (p : Nat) {n : Nat} (v : BitVec n)
    (h : ∀ i, i < n → s.status.getLsbD (p + i) = v.getLsbD i) : s.status.extractLsb' p n = v := by
  apply BitVec.eq_of_getLsbD_eq
  intro i hi
  rw [BitVec.getLsbD_extractLsb', decide_eq_true hi, Bool.true_and, h i hi]

/-- Settles O10, field by field from the bits of the view. -/
theorem statusShowsEveryFlag : Obligations.StatusShowsEveryFlag := by
  unfold Obligations.StatusShowsEveryFlag
  intro s v hv
  have hstatus : v = s.status := hv
  subst hstatus
  have hlock : s.status.extractLsb' 0 2 = lockCode s.se.lock := by
    refine status_field s 0 _ fun i hi => ?_
    rw [status_getLsbD s (0 + i) (by omega), Nat.zero_add, if_pos hi]
  have hlow : s.status.extractLsb' 10 2 = 0#2 := by
    refine status_field s 10 _ fun i hi => ?_
    rw [status_getLsbD s (10 + i) (by omega)]
    interval_cases i <;> rfl
  have hferr : s.status.extractLsb' 12 2 = s.err.lastferr := by
    refine status_field s 12 _ fun i hi => ?_
    rw [status_getLsbD s (12 + i) (by omega)]
    interval_cases i <;> rfl
  have hhigh : s.status.extractLsb' 14 18 = 0#18 := by
    refine status_field s 14 _ fun i hi => ?_
    have hpast : s.err.lastferr.getLsbD (14 + i - 12) = false := BitVec.getLsbD_of_ge _ _ (by omega)
    rw [status_getLsbD s (14 + i) (by omega), hpast]
    interval_cases i <;> rfl
  have hcode : (lockCode s.se.lock).toNat =
      (match s.se.lock with | .unlocked => 0 | .acquiring => 1 | .locked => 2 | .lost => 3) := by
    cases s.se.lock <;> rfl
  rw [hlock]
  exact ⟨hcode, status_getLsbD s 2 (by decide), status_getLsbD s 3 (by decide), status_getLsbD s 4 (by decide),
    status_getLsbD s 5 (by decide), status_getLsbD s 6 (by decide), status_getLsbD s 7 (by decide),
    status_getLsbD s 8 (by decide), status_getLsbD s 9 (by decide), hlow, hferr, hhigh⟩

/-! ### Reset -/

/-- The reset value of each register (10 R59): five thresholds, all else 0. -/
def resetValue : Reg → Reg32
  | .smallthr => 1#32
  | .largethr => 1000#32
  | .failthr => 2000#32
  | .exthr => 0xFFFFFFFF#32
  | .emittol => 1#32
  | _ => 0#32

theorem readReg_resetCore (s : State) (r : Reg) : readReg (resetCore s) r = resetValue r := by
  cases r with
  | status => show State.reset.status = 0#32; decide
  | _ => rfl

/-- The whole register space after a reset. -/
theorem readOffset_resetCore (s : State) (a : Offset) :
    readOffset (resetCore s) a =
      if a = 0x010#12 then 1#32 else if a = 0x014#12 then 1000#32 else if a = 0x018#12 then 2000#32
      else if a = 0x01C#12 then 0xFFFFFFFF#32 else if a = 0x020#12 then 1#32 else 0#32 := by
  unfold readOffset
  cases hr : regOfOffset a with
  | none =>
    have hne : ∀ r, a ≠ offsetOfReg r := by
      rintro r rfl
      rw [regOfOffset_offsetOfReg] at hr
      cases hr
    dsimp only
    have h10 : a ≠ 0x010#12 := hne .smallthr
    have h14 : a ≠ 0x014#12 := hne .largethr
    have h18 : a ≠ 0x018#12 := hne .failthr
    have h1C : a ≠ 0x01C#12 := hne .exthr
    have h20 : a ≠ 0x020#12 := hne .emittol
    rw [if_neg h10, if_neg h14, if_neg h18, if_neg h1C, if_neg h20]
    rfl
  | some r =>
    rw [offset_of_regOfOffset hr]
    show readReg (resetCore s) r = _
    rw [readReg_resetCore]
    cases r <;> rfl

/-- Settles O8: both resets are `resetCore`, whose elements are those of the reset state. -/
theorem resetGivesEveryElementItsValue : Obligations.ResetGivesEveryElementItsValue := by
  unfold Obligations.ResetGivesEveryElementItsValue
  intro s
  refine ⟨resetCore s, rfl, rfl, readOffset_resetCore s, ?_⟩
  rw [resetCore_eq]
  exact ⟨rfl, rfl, rfl, rfl, rfl, rfl, rfl, rfl, rfl, rfl, rfl, rfl⟩

end Sys2Proof.Proofs

namespace Sys2Proof.Proofs

open Sys2Proof.Machine

/-! The invariant of the core (spec/10_state.md, R50 to R58): a sound state is stopped, emitting or receiving
(46 R337), each with its own ranges, and every event leads from one of the three to one of the three. -/

/-! ### Widths and rates -/

/-- A word whose bits from `k` up are 0 is below `2 ^ k`. -/
theorem toNat_lt_of_high_bits {w : Nat} (v : BitVec w) (k : Nat)
    (h : ∀ i, k ≤ i → i < w → v.getLsbD i = false) : v.toNat < 2 ^ k := by
  apply Nat.lt_pow_two_of_testBit
  intro i hi
  rw [BitVec.testBit_toNat]
  rcases Nat.lt_or_ge i w with hw | hw
  · exact h i hi hw
  · exact BitVec.getLsbD_of_ge v i hw

/-- A masked word is below every power of two the mask is below. -/
theorem toNat_and_lt {w k : Nat} (d m : BitVec w) (h : m.toNat < 2 ^ k) : (d &&& m).toNat < 2 ^ k := by
  rw [BitVec.toNat_and]
  exact Nat.and_lt_two_pow _ h

theorem packFlags_toNat_lt (g : FlagFields) : (packFlags g).toNat < 2 ^ 18 := by
  refine toNat_lt_of_high_bits _ 18 fun i hlo hhi => ?_
  interval_cases i <;> simp [packFlags]

theorem rateB_pos (s : State) : 0 < s.rateB := by
  unfold State.rateB
  have := rateNum_pos s.rate
  omega

/-- A cell remainder fits `MACC` (10 R50). -/
theorem rateB_lt (s : State) : s.rateB < 2 ^ 18 := by
  unfold State.rateB
  cases s.rate <;> decide

/-- A tick remainder fits `RXTACC` (10 R53). -/
theorem rateA_lt (s : State) : s.rateA < 2 ^ 39 := by
  unfold State.rateA
  have hden : rateDen s.rate ≤ 100 := by cases s.rate <;> decide
  have hmul : s.creg.srate.toNat * rateDen s.rate ≤ s.creg.srate.toNat * 100 := Nat.mul_le_mul_left _ hden
  have hsrate := s.creg.srate.isLt
  omega

/-- A validated configuration gives every cell at least 8 samples (46 R331). -/
theorem rateB_le_rateA {s : State} (h : s.cfgOk = true) : 8 * s.rateB ≤ s.rateA := by
  have hle : 640 * rateNum s.rate ≤ s.rateA := of_decide_eq_true h
  unfold State.rateB
  omega

/-- And every frame more than one sample. -/
theorem rateNum_lt_rateA {s : State} (h : s.cfgOk = true) : rateNum s.rate < s.rateA := by
  have hle : 640 * rateNum s.rate ≤ s.rateA := of_decide_eq_true h
  have := rateNum_pos s.rate
  omega

/-- A cell has at most `2 ^ 32 - 1` samples (10 R50): the division loses no width. -/
theorem cellLength_lt (s : State) : (s.mod.macc.toNat + s.rateA) / s.rateB < 2 ^ 32 := by
  rw [Nat.div_lt_iff_lt_mul (rateB_pos s)]
  have hA := rateA_lt s
  have hacc := s.mod.macc.isLt
  have hB : 80 * 24 ≤ s.rateB := by
    unfold State.rateB
    cases s.rate <;> decide
  have : 2 ^ 32 * (80 * 24) ≤ 2 ^ 32 * s.rateB := Nat.mul_le_mul_left _ hB
  omega

/-- The configuration functions read the configuration registers alone. -/
theorem rate_congr {s t : State} (h : t.creg = s.creg) : t.rate = s.rate := by
  unfold State.rate; rw [h]

theorem rateA_congr {s t : State} (h : t.creg = s.creg) : t.rateA = s.rateA := by
  unfold State.rateA; rw [rate_congr h, h]

theorem cfgOk_congr {s t : State} (h : t.creg = s.creg) : t.cfgOk = s.cfgOk := by
  unfold State.cfgOk; rw [rate_congr h, rateA_congr h]

/-- A count below `DAY` is stored in `CNT` and `PREVCNT` without loss. -/
theorem toNat_ofNat_count_lt {r : Rate} {c : Nat} (h : c < rateDay r) : (BitVec.ofNat 22 c).toNat < rateDay r := by
  have := rateDay_lt r
  rw [BitVec.toNat_ofNat, Nat.mod_eq_of_lt (by omega)]
  exact h

/-- The first bit of a frame is one of its 80. -/
theorem bitIndex_zero_lt : (0 : BitVec 7).toNat < 80 := by decide

/-! ### The three run states -/

/-- The ranges of the modulator (10 R50). -/
structure ModulatorInRange (s : State) : Prop where
  mbit : s.mod.mbit.toNat < 80
  macc : s.mod.macc.toNat < s.rateB
  cell : s.mod.mact = true → s.mod.mpos = 0 ∨ s.mod.mpos.toNat < s.mod.mlen.toNat

/-- The ranges of what a candidate frame writes (10 R44, R53, R54). -/
structure SyncInRange (s : State) : Prop where
  rxflags : s.stat.rxflags.toNat < 2 ^ 18
  cnt : s.tb.cnt.toNat < rateDay s.rate
  prevcnt : s.se.prevcnt.toNat < rateDay s.rate

/-- The ranges of the receive path (10 R51 to R54). -/
structure ReceiveInRange (s : State) : Prop where
  sync : SyncInRange s
  rxcnt : s.fbd.rxcnt.toNat < 80
  rxtacc : s.tb.rxtacc.toNat < s.rateA
  envelope : EnvelopeOrdered s

/-- No path runs (46 R337): all streaming state is at its reset values. -/
structure Stopped (s : State) : Prop where
  runEmit : s.run.runEmit = false
  runRecv : s.run.runRecv = false
  enOut : s.enOut = false
  enIn : s.enIn = false
  mod : s.mod = .reset
  dem : s.dem = .reset
  fbd : s.fbd = .reset
  tb : s.tb = .reset
  se : s.se = .reset

/-- The emit path runs, emitting or draining (46 R337): the receive path is at its reset values. -/
structure Emitting (s : State) : Prop where
  runEmit : s.run.runEmit = true
  runRecv : s.run.runRecv = false
  enIn : s.enIn = false
  modulator : ModulatorInRange s
  cnt : s.tb.cnt.toNat < rateDay s.rate
  dem : s.dem = .reset
  fbd : s.fbd = .reset
  se : s.se = .reset
  rxtacc : s.tb.rxtacc = 0
  valid : s.cfgOk = true

/-- The receive path runs (46 R337): the modulator is at its reset values. -/
structure Receiving (s : State) : Prop where
  runEmit : s.run.runEmit = false
  runRecv : s.run.runRecv = true
  enOut : s.enOut = false
  enIn : s.enIn = true
  mod : s.mod = .reset
  receive : ReceiveInRange s
  valid : s.cfgOk = true

theorem Stopped.sound {s : State} (h : Stopped s) (hres : ReservedBitsZero s) : SoundState s := by
  obtain ⟨he, hr, ho, hi, hmod, hdem, hfbd, htb, hse⟩ := h
  have hcounters : CountersInRange s := by
    rw [CountersInRange, hmod, hfbd, htb, hse]
    exact ⟨by decide, by decide, rateDay_pos _, rateDay_pos _, rateB_pos s, fun _ => .inl rfl,
      fun h => absurd (hr.symm.trans h) Bool.false_ne_true⟩
  have henvelope : EnvelopeOrdered s := by rw [EnvelopeOrdered, hdem]; decide
  have hidle : s.running = false := by rw [State.running, he, hr]; rfl
  exact ⟨hres, .inl ⟨he, hr, ho, hi⟩, hcounters, henvelope,
    ⟨fun _ => hmod, fun _ => ⟨hdem, hfbd, hse, by rw [htb]; rfl⟩, fun _ => htb⟩,
    fun h => absurd (hidle.symm.trans h) Bool.false_ne_true⟩

theorem Emitting.sound {s : State} (h : Emitting s) (hres : ReservedBitsZero s) : SoundState s := by
  obtain ⟨he, hr, hi, ⟨hmbit, hmacc, hcell⟩, hcnt, hdem, hfbd, hse, hacc, hvalid⟩ := h
  have hlegal : RunStateLegal s := by
    cases ho : s.enOut with
    | true => exact .inr (.inl ⟨he, hr, ho, hi⟩)
    | false => exact .inr (.inr (.inl ⟨he, hr, ho, hi⟩))
  have hcounters : CountersInRange s := by
    refine ⟨hmbit, ?_, hcnt, ?_, hmacc, hcell, fun h => absurd (hr.symm.trans h) Bool.false_ne_true⟩
    · rw [hfbd]; decide
    · rw [hse]; exact rateDay_pos _
  have henvelope : EnvelopeOrdered s := by rw [EnvelopeOrdered, hdem]; decide
  have hbusy : s.running = true := by rw [State.running, he]; rfl
  exact ⟨hres, hlegal, hcounters, henvelope,
    ⟨fun h => absurd (h.symm.trans he) Bool.false_ne_true, fun _ => ⟨hdem, hfbd, hse, hacc⟩,
      fun h => absurd (h.symm.trans hbusy) Bool.false_ne_true⟩,
    fun _ => hvalid⟩

theorem Receiving.sound {s : State} (h : Receiving s) (hres : ReservedBitsZero s) : SoundState s := by
  obtain ⟨he, hr, ho, hi, hmod, ⟨⟨-, hcnt, hprev⟩, hrxcnt, hacc, henvelope⟩, hvalid⟩ := h
  have hcounters : CountersInRange s := by
    refine ⟨?_, hrxcnt, hcnt, hprev, ?_, ?_, fun _ => hacc⟩
    · rw [hmod]; decide
    · rw [hmod]; exact rateB_pos s
    · rw [hmod]; exact fun _ => .inl rfl
  have hbusy : s.running = true := by rw [State.running, hr, Bool.or_true]
  exact ⟨hres, .inr (.inr (.inr ⟨he, hr, ho, hi⟩)), hcounters, henvelope,
    ⟨fun _ => hmod, fun h => absurd (h.symm.trans hr) Bool.false_ne_true,
      fun h => absurd (h.symm.trans hbusy) Bool.false_ne_true⟩,
    fun _ => hvalid⟩

/-- The run states of a sound state (46 R337). -/
theorem runState_of_sound {s : State} (h : SoundState s) : Stopped s ∨ Emitting s ∨ Receiving s := by
  obtain ⟨hres, hlegal, hcounters, henvelope, ⟨hmodReset, hrecvReset, htbReset⟩, hvalid⟩ := h
  obtain ⟨-, -, -, -, -, hrxflags, -⟩ := hres
  obtain ⟨hmbit, hrxcnt, hcnt, hprev, hmacc, hcell, hacc⟩ := hcounters
  have emitting (he : s.run.runEmit = true) (hr : s.run.runRecv = false) (hi : s.enIn = false) : Emitting s := by
    obtain ⟨hdem, hfbd, hse, hacc⟩ := hrecvReset hr
    have hbusy : s.running = true := by rw [State.running, he]; rfl
    exact ⟨he, hr, hi, ⟨hmbit, hmacc, hcell⟩, hcnt, hdem, hfbd, hse, hacc, hvalid hbusy⟩
  rcases hlegal with ⟨he, hr, ho, hi⟩ | ⟨he, hr, -, hi⟩ | ⟨he, hr, -, hi⟩ | ⟨he, hr, ho, hi⟩
  · obtain ⟨hdem, hfbd, hse, -⟩ := hrecvReset hr
    have hidle : s.running = false := by rw [State.running, he, hr]; rfl
    exact .inl ⟨he, hr, ho, hi, hmodReset he, hdem, hfbd, htbReset hidle, hse⟩
  · exact .inr (.inl (emitting he hr hi))
  · exact .inr (.inl (emitting he hr hi))
  · have hbusy : s.running = true := by rw [State.running, hr, Bool.or_true]
    exact .inr (.inr ⟨he, hr, ho, hi, hmodReset he,
      ⟨⟨hrxflags, hcnt, hprev⟩, hrxcnt, hacc hr, henvelope⟩, hvalid hbusy⟩)

/-! ### Reset -/

theorem stopped_reset : Stopped State.reset := ⟨rfl, rfl, by decide, by decide, rfl, rfl, rfl, rfl, rfl⟩

/-- Settles O56: the reset state is stopped. -/
theorem resetStateIsSound : Obligations.ResetStateIsSound :=
  stopped_reset.sound (by decide)

/-- A reset gives a sound state, since what it keeps is the environment's (log entry 2). -/
theorem resetCore_sound (s : State) : SoundState (resetCore s) := resetStateIsSound

/-! ### Commands and plain writes -/

/-- The reserved bits of what a command writes: two operand registers and `RESULT` (10 R21, R26). -/
structure OperandBitsZero (s : State) : Prop where
  fldFlags : s.ops.fldFlags.toNat < 2 ^ 18
  fb2 : s.ops.fb2.toNat < 2 ^ 16
  result : s.result &&& 0xFFFFFECC#32 = 0#32

theorem putFb_fb2_lt (o : Operands) (b : FrameBits) : (o.putFb b).fb2.toNat < 2 ^ 16 := by
  show ((b.extractLsb' 64 16).setWidth 32).toNat < 2 ^ 16
  have := (b.extractLsb' 64 16).isLt
  rw [BitVec.toNat_setWidth]
  omega

theorem resultSync_reserved (ok : Bool) (c : BitVec 2) : resultSync ok c &&& 0xFFFFFECC#32 = 0#32 := by
  revert ok c; decide

theorem resultZero_reserved : (0 : Reg32) &&& 0xFFFFFECC#32 = 0#32 := by decide

theorem resultRange_reserved : resultRange &&& 0xFFFFFECC#32 = 0#32 := by decide

theorem resultCmdErr_reserved : resultCmdErr &&& 0xFFFFFECC#32 = 0#32 := by decide

theorem operandBits_of_sound {s : State} (hs : SoundState s) : OperandBitsZero s := by
  obtain ⟨⟨-, -, -, hflags, hfb2, -, hresult⟩, -⟩ := hs
  exact ⟨hflags, hfb2, hresult⟩

theorem cmdEnc_operandBits {s : State} (h : OperandBitsZero s) : OperandBitsZero (cmdEnc s) := by
  unfold cmdEnc
  dsimp only
  split
  · exact ⟨h.fldFlags, putFb_fb2_lt _ _, resultZero_reserved⟩
  · exact ⟨h.fldFlags, h.fb2, resultRange_reserved⟩

theorem cmdDec_operandBits {s : State} (h : OperandBitsZero s) : OperandBitsZero (cmdDec s) := by
  unfold cmdDec
  split
  · exact ⟨packFlags_toNat_lt _, h.fb2, resultSync_reserved _ _⟩
  · exact ⟨h.fldFlags, h.fb2, resultSync_reserved _ _⟩

theorem cmdLbl2cnt_operandBits {s : State} (h : OperandBitsZero s) : OperandBitsZero (cmdLbl2cnt s) := by
  unfold cmdLbl2cnt
  split
  · exact ⟨h.fldFlags, h.fb2, resultZero_reserved⟩
  · exact ⟨h.fldFlags, h.fb2, resultRange_reserved⟩

theorem cmdCnt2lbl_operandBits {s : State} (h : OperandBitsZero s) : OperandBitsZero (cmdCnt2lbl s) := by
  unfold cmdCnt2lbl
  split
  · exact ⟨h.fldFlags, h.fb2, resultRange_reserved⟩
  · exact ⟨h.fldFlags, h.fb2, resultZero_reserved⟩

theorem cmdInclbl_operandBits {s : State} (h : OperandBitsZero s) : OperandBitsZero (cmdInclbl s) := by
  unfold cmdInclbl
  split
  · exact ⟨h.fldFlags, h.fb2, resultZero_reserved⟩
  · exact ⟨h.fldFlags, h.fb2, resultRange_reserved⟩

theorem cmdTopos_operandBits {s : State} (h : OperandBitsZero s) : OperandBitsZero (cmdTopos s) := by
  unfold cmdTopos
  dsimp only
  split
  · exact ⟨h.fldFlags, h.fb2, resultZero_reserved⟩
  · exact ⟨h.fldFlags, h.fb2, resultRange_reserved⟩

/-- Every command writes 0 in the reserved bits of what it writes. -/
theorem runCommand_operandBits (op : BitVec 8) {s : State} (h : OperandBitsZero s) :
    OperandBitsZero (runCommand op s) := by
  unfold runCommand
  split
  · exact ⟨h.fldFlags, h.fb2, resultZero_reserved⟩
  · exact cmdEnc_operandBits h
  · exact cmdDec_operandBits h
  · exact ⟨h.fldFlags, h.fb2, resultSync_reserved _ _⟩
  · exact cmdLbl2cnt_operandBits h
  · exact cmdCnt2lbl_operandBits h
  · exact cmdInclbl_operandBits h
  · exact ⟨packFlags_toNat_lt _, h.fb2, resultZero_reserved⟩
  · exact cmdTopos_operandBits h
  · exact ⟨h.fldFlags, h.fb2, resultZero_reserved⟩
  · exact operandBits_of_sound (resetCore_sound s)
  · exact ⟨h.fldFlags, h.fb2, resultCmdErr_reserved⟩

/-- New operands, `RESULT` and errors keep a state sound when their reserved bits are 0: no clause on the paths
reads them. -/
theorem sound_of_operandBits {s : State} (hs : SoundState s) {o : Operands} {r : Reg32} {e : Errors}
    (h : OperandBitsZero { s with ops := o, result := r, err := e }) :
    SoundState { s with ops := o, result := r, err := e } := by
  obtain ⟨⟨hctrl, hcfg, hubits, -, -, hrxflags, -⟩, hrest⟩ := hs
  exact ⟨⟨hctrl, hcfg, hubits, h.fldFlags, h.fb2, hrxflags, h.result⟩, hrest⟩

theorem runCommand_sound (op : BitVec 8) {s : State} (hs : SoundState s) : SoundState (runCommand op s) := by
  have hbits := runCommand_operandBits op (operandBits_of_sound hs)
  by_cases hA : op.toNat = 0x0A
  · rw [runCommand_sreset op s hA]
    exact resetCore_sound s
  · by_cases h9 : op.toNat = 0x09
    · rw [runCommand_clrerr op s h9, cmdClrerr_eq] at hbits ⊢
      exact sound_of_operandBits hs hbits
    · obtain ⟨o, r, heq⟩ := runCommand_eq op s h9 hA
      rw [heq] at hbits ⊢
      exact sound_of_operandBits hs hbits

/-- A store masks the reserved bits of its register. -/
theorem storeReg_reservedBits {s : State} (h : ReservedBitsZero s) (r : Reg) (d : Reg32) :
    ReservedBitsZero (storeReg s r d) := by
  obtain ⟨hctrl, hcfg, hubits, hflags, hfb2, hrxflags, hresult⟩ := h
  cases r with
  | cfg => exact ⟨hctrl, toNat_and_lt _ _ (by decide), hubits, hflags, hfb2, hrxflags, hresult⟩
  | ubits => exact ⟨hctrl, hcfg, toNat_and_lt _ _ (by decide), hflags, hfb2, hrxflags, hresult⟩
  | fldFlags => exact ⟨hctrl, hcfg, hubits, toNat_and_lt _ _ (by decide), hfb2, hrxflags, hresult⟩
  | fb2 => exact ⟨hctrl, hcfg, hubits, hflags, toNat_and_lt _ _ (by decide), hrxflags, hresult⟩
  | _ => exact ⟨hctrl, hcfg, hubits, hflags, hfb2, hrxflags, hresult⟩

theorem stopped_of_not_running {s : State} (hs : SoundState s) (h : s.running = false) : Stopped s := by
  obtain ⟨he, hr⟩ : s.run.runEmit = false ∧ s.run.runRecv = false := by simpa [State.running] using h
  rcases runState_of_sound hs with hst | hem | hrx
  · exact hst
  · exact absurd (he.symm.trans hem.runEmit) Bool.false_ne_true
  · exact absurd (hr.symm.trans hrx.runRecv) Bool.false_ne_true

/-- A store keeps a state sound when the configuration is stored while no path runs: then there is no range for a
new rate to break. -/
theorem storeReg_sound {s : State} (hs : SoundState s) {r : Reg} (d : Reg32)
    (hlock : regLocked r = true → s.running = false) : SoundState (storeReg s r d) := by
  have hres := storeReg_reservedBits hs.1 r d
  obtain ⟨g, o, heq⟩ := storeReg_eq s r d
  cases hl : regLocked r with
  | true =>
    obtain ⟨he, hr, ho, hi, hmod, hdem, hfbd, htb, hse⟩ := stopped_of_not_running hs (hlock hl)
    have hst : Stopped (storeReg s r d) := by
      rw [heq]
      exact ⟨he, hr, ho, hi, hmod, hdem, hfbd, htb, hse⟩
    exact hst.sound hres
  | false =>
    have hcreg := storeReg_creg_of_not_locked s r d hl
    rw [heq] at hcreg hres ⊢
    obtain rfl : g = s.creg := hcreg
    exact ⟨hres, hs.2⟩

theorem writeOffset_sound {s : State} (hs : SoundState s) {a : Offset} (d : Reg32) (hctrl : a ≠ 0x000#12)
    (hcmd : a ≠ 0x03C#12) : SoundState (writeOffset a d s) := by
  rcases writeOffset_plain d s hctrl hcmd with h | ⟨r, hlock, h⟩
  · rw [h]; exact hs
  · rw [h]; exact storeReg_sound hs d hlock

/-! ### Start and stop -/

/-- `CTRL` with the two bits stored and the errors recorded, before any path starts or stops. -/
def storeCtrl (s : State) (eo ei : Bool) (e : Errors) : State :=
  { s with run := { s.run with ctrl := ctrlWord eo ei }, err := e }

/-- What the two disable rules do once the enable bits are 0: `STOP.RECV` at once, `EMIT.STOP` if `now` says so
(46 R330, R336). -/
def stopPaths (now : Bool) (s : State) : State :=
  if s.run.runRecv = true then stopRecv s else if s.run.runEmit = true ∧ now = true then emitStop s else s

/-- What a write of `CTRL` grants (46 R330): nothing, the emit path, or the receive path, and a path only while the
other is stopped and, if it is to start, with a validated configuration. -/
theorem ctrlGrant_cases (eo ei : Bool) (s : State) :
    ((ctrlGrant eo ei s).enOut = false ∧ (ctrlGrant eo ei s).enIn = false) ∨
    ((ctrlGrant eo ei s).enOut = true ∧ (ctrlGrant eo ei s).enIn = false ∧ s.run.runRecv = false ∧
      (s.run.runEmit = false → s.cfgOk = true)) ∨
    ((ctrlGrant eo ei s).enOut = false ∧ (ctrlGrant eo ei s).enIn = true ∧ s.run.runEmit = false ∧
      (s.run.runRecv = false → s.cfgOk = true)) := by
  unfold ctrlGrant
  dsimp only
  generalize s.run.runEmit = re
  generalize s.run.runRecv = rr
  generalize s.cfgOk = ok
  revert eo ei re rr ok
  decide

/-- The three outcomes of `REG.WR CTRL`, one for each grant: both enable bits 0 and the paths stopped as far as no
frame is in progress, the emit path on, or the receive path on (46 R330). -/
theorem ctrlWrite_cases (eo ei : Bool) {s : State} (hone : s.run.runEmit = false ∨ s.run.runRecv = false) :
    ∃ e, ctrlWrite eo ei s = stopPaths (!s.mod.mact) (storeCtrl s false false e) ∨
      (s.run.runRecv = false ∧ (s.run.runEmit = false → s.cfgOk = true) ∧
        ctrlWrite eo ei s =
          if s.run.runEmit = true then storeCtrl s true false e else startEmit (storeCtrl s true false e)) ∨
      (s.run.runEmit = false ∧ (s.run.runRecv = false → s.cfgOk = true) ∧
        ctrlWrite eo ei s =
          if s.run.runRecv = true then storeCtrl s false true e else startRecv (storeCtrl s false true e)) := by
  have hcase := ctrlGrant_cases eo ei s
  unfold ctrlWrite
  dsimp only
  generalize ctrlGrant eo ei s = g at hcase ⊢
  obtain ⟨go, gi, gr⟩ := g
  have hstore : ∃ e, (State.putRun (if gr then recordConfigError s else s)
      { (if gr then recordConfigError s else s).run with ctrl := ctrlWord go gi }) = storeCtrl s go gi e := by
    cases gr <;> exact ⟨_, rfl⟩
  obtain ⟨e, he⟩ := hstore
  dsimp only at hcase ⊢
  rw [he]
  rcases hcase with ⟨rfl, rfl⟩ | ⟨rfl, rfl, hr, hk⟩ | ⟨rfl, rfl, he, hk⟩
  · refine ⟨e, .inl ?_⟩
    cases hr : s.run.runRecv with
    | true =>
      have hoff : s.run.runEmit = false := by simpa [hr] using hone
      simp [stopPaths, storeCtrl, hr, hoff, stopRecv_eq]
    | false => simp [stopPaths, storeCtrl, hr]
  · refine ⟨e, .inr (.inl ⟨hr, hk, ?_⟩)⟩
    cases he : s.run.runEmit with
    | true => simp [storeCtrl, he, hr]
    | false => simp [storeCtrl, he, hr, startEmit_eq]
  · refine ⟨e, .inr (.inr ⟨he, hk, ?_⟩)⟩
    cases hr : s.run.runRecv with
    | true => simp [storeCtrl, he, hr]
    | false => simp [storeCtrl, he, hr, startRecv_eq]

/-- `DEV.ERR` records the error and stops both paths at once (46 R336). -/
theorem devErr_eq (s : State) (hone : s.run.runEmit = false ∨ s.run.runRecv = false) :
    devErr s = stopPaths true (storeCtrl s false false { s.err with deverr := true }) := by
  have hstore : State.putRun (recordDeviceError s) { (recordDeviceError s).run with ctrl := ctrlWord false false } =
      storeCtrl s false false { s.err with deverr := true } := rfl
  unfold devErr
  dsimp only
  rw [hstore]
  cases hr : s.run.runRecv with
  | true =>
    have hoff : s.run.runEmit = false := by simpa [hr] using hone
    simp [stopPaths, storeCtrl, hr, hoff, stopRecv_eq]
  | false => simp [stopPaths, storeCtrl, hr]

/-! ### What a start and a stop make of a run state -/

theorem reservedBitsZero_storeCtrl {s : State} (h : ReservedBitsZero s) (eo ei : Bool) (e : Errors) :
    ReservedBitsZero (storeCtrl s eo ei e) := by
  obtain ⟨-, hrest⟩ := h
  exact ⟨ctrlWord_toNat_lt eo ei, hrest⟩

theorem stopped_storeCtrl {s : State} (h : Stopped s) (e : Errors) : Stopped (storeCtrl s false false e) :=
  ⟨h.runEmit, h.runRecv, ctrlWord_enOut _ _, ctrlWord_enIn _ _, h.mod, h.dem, h.fbd, h.tb, h.se⟩

theorem emitting_storeCtrl {s : State} (h : Emitting s) (eo : Bool) (e : Errors) :
    Emitting (storeCtrl s eo false e) :=
  ⟨h.runEmit, h.runRecv, ctrlWord_enIn _ _, ⟨h.modulator.mbit, h.modulator.macc, h.modulator.cell⟩, h.cnt, h.dem,
    h.fbd, h.se, h.rxtacc, h.valid⟩

theorem receiving_storeCtrl {s : State} (h : Receiving s) (e : Errors) : Receiving (storeCtrl s false true e) := by
  obtain ⟨⟨hrxflags, hcnt, hprev⟩, hrxcnt, hacc, henvelope⟩ := h.receive
  exact ⟨h.runEmit, h.runRecv, ctrlWord_enOut _ _, ctrlWord_enIn _ _, h.mod,
    ⟨⟨hrxflags, hcnt, hprev⟩, hrxcnt, hacc, henvelope⟩, h.valid⟩

theorem stopped_emitStop {s : State} (h : Emitting s) (hout : s.enOut = false) : Stopped (emitStop s) := by
  have htb : (emitStop s).tb = .reset := by
    show Timebase.mk 0 false s.tb.rxtacc = .reset
    rw [h.rxtacc]
    rfl
  exact ⟨rfl, h.runRecv, hout, h.enIn, rfl, h.dem, h.fbd, htb, h.se⟩

/-- `STOP.RECV` stops the receive path whatever the sync engine holds; the disable bits are stored before it. -/
theorem stopped_stopRecv {s : State} (h : Receiving s) (e : Errors) :
    Stopped (stopRecv (storeCtrl s false false e)) :=
  ⟨h.runEmit, rfl, ctrlWord_enOut _ _, ctrlWord_enIn _ _, h.mod, rfl, rfl, rfl, rfl⟩

theorem emitting_startEmit {s : State} (h : Stopped s) (hk : s.cfgOk = true) (e : Errors) :
    Emitting (startEmit (storeCtrl s true false e)) := by
  have hmod : ModulatorInRange (startEmit (storeCtrl s true false e)) :=
    ⟨(by decide : Modulator.reset.mbit.toNat < 80), rateB_pos s, fun _ => .inl rfl⟩
  have hacc : s.tb.rxtacc = 0 := by rw [h.tb]; rfl
  exact ⟨rfl, h.runRecv, ctrlWord_enIn _ _, hmod, rateDay_pos _, h.dem, h.fbd, h.se, hacc, hk⟩

theorem receiving_startRecv {s : State} (h : Stopped s) (hk : s.cfgOk = true) (e : Errors) :
    Receiving (startRecv (storeCtrl s false true e)) := by
  have hA : 0 < s.rateA := Nat.zero_lt_of_lt (rateNum_lt_rateA hk)
  have hrx : ReceiveInRange (startRecv (storeCtrl s false true e)) :=
    ⟨⟨(by decide : (0 : Reg32).toNat < 2 ^ 18), rateDay_pos _, rateDay_pos _⟩,
      (by decide : Fbd.reset.rxcnt.toNat < 80), hA,
      (by decide : Demodulator.reset.elo.toInt ≤ Demodulator.reset.ehi.toInt)⟩
  exact ⟨h.runEmit, rfl, ctrlWord_enOut _ _, ctrlWord_enIn _ _, h.mod, hrx, hk⟩

theorem one_path {s : State} (hs : SoundState s) : s.run.runEmit = false ∨ s.run.runRecv = false := by
  rcases runState_of_sound hs with h | h | h
  · exact .inl h.runEmit
  · exact .inr h.runRecv
  · exact .inl h.runEmit

/-- Storing 0 in both enable bits and stopping what is to stop keeps a state sound: an emitting path that goes on is
draining (46 R337). -/
theorem stopPaths_sound {s : State} (hs : SoundState s) (now : Bool) (e : Errors) :
    SoundState (stopPaths now (storeCtrl s false false e)) := by
  have hres := reservedBitsZero_storeCtrl hs.1 false false e
  unfold stopPaths
  rcases runState_of_sound hs with h | h | h
  · rw [if_neg, if_neg]
    · exact (stopped_storeCtrl h e).sound hres
    · exact fun hc => Bool.false_ne_true (h.runEmit.symm.trans hc.1)
    · exact fun hc => Bool.false_ne_true (h.runRecv.symm.trans hc)
  · have hem := emitting_storeCtrl h false e
    rw [if_neg (fun hc => Bool.false_ne_true (hem.runRecv.symm.trans hc))]
    split
    · exact (stopped_emitStop hem (ctrlWord_enOut _ _)).sound hres
    · exact hem.sound hres
  · rw [if_pos (show (storeCtrl s false false e).run.runRecv = true from h.runRecv)]
    exact (stopped_stopRecv h e).sound hres

theorem devErr_sound {s : State} (hs : SoundState s) : SoundState (devErr s) := by
  rw [devErr_eq s (one_path hs)]
  exact stopPaths_sound hs true _

theorem ctrlWrite_sound (eo ei : Bool) {s : State} (hs : SoundState s) : SoundState (ctrlWrite eo ei s) := by
  obtain ⟨e, h | ⟨hr, hk, h⟩ | ⟨he, hk, h⟩⟩ := ctrlWrite_cases eo ei (one_path hs) <;> rw [h]
  · exact stopPaths_sound hs _ e
  · have hres := reservedBitsZero_storeCtrl hs.1 true false e
    rcases runState_of_sound hs with hst | hem | hrx
    · rw [if_neg (fun hc => Bool.false_ne_true (hst.runEmit.symm.trans hc))]
      exact (emitting_startEmit hst (hk hst.runEmit) e).sound hres
    · rw [if_pos hem.runEmit]
      exact (emitting_storeCtrl hem true e).sound hres
    · exact absurd (hr.symm.trans hrx.runRecv) Bool.false_ne_true
  · have hres := reservedBitsZero_storeCtrl hs.1 false true e
    rcases runState_of_sound hs with hst | hem | hrx
    · rw [if_neg (fun hc => Bool.false_ne_true (hst.runRecv.symm.trans hc))]
      obtain ⟨hctrl, hcfg, hubits, hflags, hfb2, -, hresult⟩ := hres
      exact (receiving_startRecv hst (hk hst.runRecv) e).sound
        ⟨hctrl, hcfg, hubits, hflags, hfb2, (by decide : (0 : Reg32).toNat < 2 ^ 18), hresult⟩
    · exact absurd (he.symm.trans hem.runEmit) Bool.false_ne_true
    · rw [if_pos hrx.runRecv]
      exact (receiving_storeCtrl hrx e).sound hres

/-! ### The emit path -/

/-- A sample of a cell in progress: `MPOS` lies inside the cell (42 R170). -/
structure CellInProgress (s : State) : Prop where
  mbit : s.mod.mbit.toNat < 80
  macc : s.mod.macc.toNat < s.rateB
  mpos : s.mod.mpos.toNat < s.mod.mlen.toNat

/-- A new cell is at least one sample long, and its remainder stays below the modulus (42 R171). -/
theorem modCell_cellInProgress {s : State} (h : ModulatorInRange s) (hk : s.cfgOk = true) (hpos : s.mod.mpos = 0) :
    CellInProgress (modCell s) := by
  have hB := rateB_pos s
  have hmacc : (BitVec.ofNat 18 ((s.mod.macc.toNat + s.rateA) % s.rateB)).toNat < s.rateB := by
    have hmod := Nat.mod_lt (s.mod.macc.toNat + s.rateA) hB
    have := rateB_lt s
    rw [BitVec.toNat_ofNat, Nat.mod_eq_of_lt (by omega)]
    exact hmod
  have hlen : 0 < (BitVec.ofNat 32 ((s.mod.macc.toNat + s.rateA) / s.rateB)).toNat := by
    rw [BitVec.toNat_ofNat, Nat.mod_eq_of_lt (cellLength_lt s)]
    have := rateB_le_rateA hk
    exact Nat.div_pos (by omega) hB
  have hmpos : s.mod.mpos.toNat < (BitVec.ofNat 32 ((s.mod.macc.toNat + s.rateA) / s.rateB)).toNat := by
    rw [hpos]
    exact hlen
  rw [modCell_eq]
  exact ⟨h.mbit, hmacc, hmpos⟩

theorem midToggle_cellInProgress {s : State} (h : CellInProgress s) : CellInProgress (midToggle s) := by
  rw [midToggle_eq]
  exact ⟨h.mbit, h.macc, h.mpos⟩

/-- The end of a sample moves on inside the cell, to the start of the next cell, or ends the frame. -/
theorem advanceSample_inRange {s : State} (h : CellInProgress s) : ModulatorInRange (advanceSample s) := by
  rcases advanceSample_cases s with ⟨hne, heq⟩ | ⟨-, hlast, heq⟩ | ⟨-, -, heq⟩ <;> rw [heq]
  · have hmpos : (s.mod.mpos + 1).toNat < s.mod.mlen.toNat := by
      have := h.mpos
      bv_omega
    exact ⟨h.mbit, h.macc, fun _ => .inr hmpos⟩
  · have hmbit : (s.mod.mbit + 1).toNat < 80 := by
      have := h.mbit
      bv_omega
    exact ⟨hmbit, h.macc, fun _ => .inl rfl⟩
  · exact ⟨bitIndex_zero_lt, h.macc, fun _ => .inl rfl⟩

theorem emitSample_inRange {s : State} (h : ModulatorInRange s) (hk : s.cfgOk = true) (hact : s.mod.mact = true) :
    ModulatorInRange (emitSample s) := by
  have hcell : CellInProgress (if s.mod.mpos = 0 then modCell s else s) := by
    split
    · exact modCell_cellInProgress h hk ‹_›
    · exact ⟨h.mbit, h.macc, (h.cell hact).resolve_left ‹_›⟩
  obtain ⟨hmbit, hmacc, hend⟩ := advanceSample_inRange (midToggle_cellInProgress hcell)
  exact ⟨hmbit, hmacc, hend⟩

theorem emitting_emitSample {s : State} (h : Emitting s) (hact : s.mod.mact = true) : Emitting (emitSample s) := by
  have hmod := emitSample_inRange h.modulator h.valid hact
  obtain ⟨m, heq⟩ := emitSample_eq s
  rw [heq] at hmod ⊢
  exact ⟨h.runEmit, h.runRecv, h.enIn, hmod, h.cnt, h.dem, h.fbd, h.se, h.rxtacc, h.valid⟩

/-- Whether the next frame free-runs or jams, its count is below `DAY` (45 R272). -/
theorem emitCount_lt (s : State) : emitCount s < rateDay s.rate := by
  unfold emitCount
  dsimp only
  split_ifs
  · exact posCount_lt _ _ _ _
  · exact nextCount_lt _ _
  · exact posCount_lt _ _ _ _

theorem emitting_emitNext {s : State} (h : Emitting s) : Emitting (emitNext s) := by
  rw [emitNext_eq]
  exact ⟨h.runEmit, h.runRecv, h.enIn,
    ⟨bitIndex_zero_lt, h.modulator.macc, fun _ => .inl rfl⟩,
    toNat_ofNat_count_lt (emitCount_lt s), h.dem, h.fbd, h.se, h.rxtacc, h.valid⟩

/-- An emit-path sample changes no register with reserved bits. -/
theorem reservedBitsZero_emitSample {s : State} (h : ReservedBitsZero s) : ReservedBitsZero (emitSample s) := by
  obtain ⟨m, heq⟩ := emitSample_eq s
  rw [heq]
  exact h

theorem smpOut_sound {s : State} (hs : SoundState s) : SoundState (smpOut s) := by
  have emitting (he : s.run.runEmit = true) : Emitting s := by
    rcases runState_of_sound hs with h | h | h
    · exact absurd (h.runEmit.symm.trans he) Bool.false_ne_true
    · exact h
    · exact absurd (h.runEmit.symm.trans he) Bool.false_ne_true
  rcases smpOut_cases s with ⟨-, h⟩ | ⟨he, hact, h⟩ | ⟨he, -, hout, h⟩ | ⟨he, -, -, h⟩ <;> rw [h]
  · exact hs
  · exact (emitting_emitSample (emitting he) hact).sound (reservedBitsZero_emitSample hs.1)
  · exact (stopped_emitStop (emitting he) hout).sound hs.1
  · exact (emitting_emitSample (emitting_emitNext (emitting he)) rfl).sound
      (reservedBitsZero_emitSample (s := emitNext s) hs.1)

/-! ### The receive path -/

/-- `inrange` as bounds (41 R143). -/
theorem inrange_iff (l : Label) (fn : Nat) :
    inrange l fn = true ↔ l.hh ≤ 23 ∧ l.mm ≤ 59 ∧ l.ss ≤ 59 ∧ l.ff < fn := by
  simp [inrange, and_assoc]

/-- The label of a frame that decodes is in range (41 R146). -/
theorem inrange_of_decodeFrame {b : FrameBits} {fn : Nat} {f : LtcFrame}
    (h : decodeFrame b fn = .ok f) : inrange (frameLabel f) fn = true := by
  rcases decodeFrame_cases b fn with ⟨-, k⟩ | ⟨-, -, k⟩ | ⟨-, -, -, k⟩ | ⟨-, hgood, hff, k⟩ <;> rw [h] at k <;>
    cases k
  simp only [badDigits, Bool.or_eq_false_iff, decide_eq_false_iff_not, Nat.not_lt] at hgood
  obtain ⟨⟨⟨⟨⟨⟨-, hsu⟩, hmu⟩, -⟩, hst⟩, hmt⟩, hhh⟩ := hgood
  rw [inrange_iff]
  have digits {m n : Nat} (t : BitVec m) (u : BitVec n) : (BitVec.ofNat 8 (twoDigits t u)).toNat ≤ twoDigits t u :=
    Nat.mod_le _ _
  have hmm : twoDigits (ltcFields b).mt (ltcFields b).mu ≤ 59 := by unfold twoDigits; omega
  have hss : twoDigits (ltcFields b).st (ltcFields b).su ≤ 59 := by unfold twoDigits; omega
  exact ⟨(digits _ _).trans hhh, (digits _ _).trans hmm, (digits _ _).trans hss, (digits _ _).trans_lt hff⟩

/-- A label in range has a count below `DAY` (44 R234). -/
theorem labelCount_lt {r : Rate} {l : Label} (h : inrange l (rateFn r) = true) : labelCount r l < rateDay r := by
  rw [inrange_iff] at h
  cases r <;> simp only [labelCount, rateFn, rateDf, rateDay, if_true, Bool.false_eq_true, if_false] at h ⊢ <;> omega

theorem seEval_inRange {c : Nat} {s : State} (hc : c < rateDay s.rate) (h : SyncInRange s) :
    SyncInRange (seEval c s) := by
  have hcnt := toNat_ofNat_count_lt hc
  rcases seEval_cases c s with ⟨-, k⟩ | ⟨-, -, -, k⟩ | ⟨-, -, -, k⟩ | ⟨-, -, -, -, k⟩ | ⟨-, -, -, -, k⟩ <;> rw [k]
  · rw [jamTo_eq]; exact ⟨h.rxflags, hcnt, h.prevcnt⟩
  · exact ⟨h.rxflags, h.cnt, h.prevcnt⟩
  · exact h
  · rw [smoothTo_eq]; exact ⟨h.rxflags, hcnt, h.prevcnt⟩
  · rw [jamTo_eq]; exact ⟨h.rxflags, hcnt, h.prevcnt⟩

/-- The count of a frame is remembered for the next (45 R280). -/
theorem syncInRange_putPrev {s : State} {c : Nat} (hc : c < rateDay s.rate) (h : SyncInRange s) :
    SyncInRange (s.putSe { s.se with prevcnt := BitVec.ofNat 22 c, prevv := true }) :=
  ⟨h.rxflags, h.cnt, toNat_ofNat_count_lt hc⟩

theorem seFrame_inRange {f : LtcFrame} {s : State} (hf : inrange (frameLabel f) (rateFn s.rate) = true)
    (h : SyncInRange s) : SyncInRange (seFrame f s) := by
  have hc := labelCount_lt hf
  unfold seFrame
  dsimp only
  generalize hl : lockOnFrame _ _ _ = l
  have hstart : SyncInRange ((s.putStat { s.stat with
      okcnt := s.stat.okcnt + 1, rxtime := packTime (frameLabel f), rxflags := packFlags (frameFlags f) }).putSe
      { s.se with gap := 0, lock := l }) :=
    ⟨packFlags_toNat_lt _, h.cnt, h.prevcnt⟩
  split
  · refine syncInRange_putPrev ?_ (seEval_inRange (by exact hc) hstart)
    rw [rate_congr (seEval_keepsHostRegisters _ _).creg]
    exact hc
  · exact syncInRange_putPrev (by exact hc) hstart

theorem seFerr_inRange (e : FrameError) {s : State} (h : SyncInRange s) : SyncInRange (seFerr e s) := by
  obtain ⟨p, heq⟩ := seFerr_eq e s
  rw [heq]
  exact ⟨h.rxflags, h.cnt, h.prevcnt⟩

theorem rxDec_inRange {s : State} (h : SyncInRange s) : SyncInRange (rxDec s) := by
  rcases rxDec_cases s with ⟨f, hf, heq⟩ | ⟨e, -, heq⟩ <;> rw [heq]
  · exact seFrame_inRange (inrange_of_decodeFrame hf) h
  · exact seFerr_inRange e h

theorem fbdShift_inRange (b : Bool) {s : State} (h : ReceiveInRange s) : ReceiveInRange (fbdShift b s) := by
  have hframe := fbdShift_frame b s
  have hacc : (fbdShift b s).tb.rxtacc.toNat < (fbdShift b s).rateA := by
    rw [hframe.rxtacc, rateA_congr hframe.creg]
    exact h.rxtacc
  have henvelope : EnvelopeOrdered (fbdShift b s) := by
    rw [EnvelopeOrdered, hframe.dem]
    exact h.envelope
  have hrest : SyncInRange (fbdShift b s) ∧ (fbdShift b s).fbd.rxcnt.toNat < 80 := by
    rcases fbdShift_cases b s with ⟨-, heq⟩ | ⟨-, -, heq⟩ | ⟨hne, -, heq⟩ <;> rw [heq]
    · obtain ⟨hrxflags, hcnt, hprev⟩ :=
        rxDec_inRange (s := { s with fbd := ⟨shiftIn b s.fbd.rxsr, 80#7⟩ })
          ⟨h.sync.rxflags, h.sync.cnt, h.sync.prevcnt⟩
      exact ⟨⟨hrxflags, hcnt, hprev⟩, bitIndex_zero_lt⟩
    · exact ⟨⟨h.sync.rxflags, h.sync.cnt, h.sync.prevcnt⟩, bitIndex_zero_lt⟩
    · have hrxcnt : (s.fbd.rxcnt + 1).toNat < 80 := by
        have := h.rxcnt
        bv_omega
      exact ⟨⟨h.sync.rxflags, h.sync.cnt, h.sync.prevcnt⟩, hrxcnt⟩
  exact ⟨hrest.1, hrest.2, hacc, henvelope⟩

/-- A new demodulator state with an ordered envelope keeps the ranges. -/
theorem ReceiveInRange.withDem {s : State} (h : ReceiveInRange s) {d : Demodulator}
    (hd : d.elo.toInt ≤ d.ehi.toInt) : ReceiveInRange { s with dem := d } :=
  ⟨⟨h.sync.rxflags, h.sync.cnt, h.sync.prevcnt⟩, h.rxcnt, h.rxtacc, hd⟩

theorem demodCls_inRange (d : Reg32) {s : State} (h : ReceiveInRange s) : ReceiveInRange (demodCls d s) := by
  rcases demodCls_cases d s with ⟨-, -, heq⟩ | ⟨-, -, heq⟩ | ⟨-, -, heq⟩ | ⟨-, -, heq⟩ <;> rw [heq]
  · exact fbdShift_inRange true (h.withDem h.envelope)
  · exact h.withDem h.envelope
  · exact fbdShift_inRange false (h.withDem h.envelope)
  · exact h.withDem h.envelope

theorem onEdge_inRange {s : State} (h : ReceiveInRange s) : ReceiveInRange (onEdge s) := by
  have hrestart : ReceiveInRange (s.putDem { s.dem with tmr := 0 }) := h.withDem h.envelope
  unfold onEdge
  dsimp only
  split
  · have hcls := demodCls_inRange s.dem.tmr hrestart
    exact hcls.withDem hcls.envelope
  · exact hrestart.withDem hrestart.envelope

theorem seTick_inRange {s : State} (h : ReceiveInRange s) : ReceiveInRange (seTick s) := by
  obtain ⟨l, g, heq⟩ := seTick_eq s
  rw [heq]
  exact ⟨⟨h.sync.rxflags, toNat_ofNat_count_lt (nextCount_lt _ _), h.sync.prevcnt⟩, h.rxcnt, h.rxtacc, h.envelope⟩

/-- The tick accumulator stays below its modulus, since a sample adds less than the modulus (43 R191). -/
theorem rxTickgen_inRange {s : State} (h : ReceiveInRange s) (hk : s.cfgOk = true) :
    ReceiveInRange (rxTickgen s) := by
  have hnum := rateNum_lt_rateA hk
  have hA := rateA_lt s
  have hacc := h.rxtacc
  have store : ∀ n, n < s.rateA → ReceiveInRange { s with tb := { s.tb with rxtacc := BitVec.ofNat 40 n } } := by
    intro n hn
    have hfit : (BitVec.ofNat 40 n).toNat < s.rateA := by
      rw [BitVec.toNat_ofNat, Nat.mod_eq_of_lt (by omega)]
      exact hn
    exact ⟨⟨h.sync.rxflags, h.sync.cnt, h.sync.prevcnt⟩, h.rxcnt, hfit, h.envelope⟩
  rcases rxTickgen_cases s with ⟨-, heq⟩ | ⟨hlt, heq⟩ <;> rw [heq]
  · exact seTick_inRange (store _ (by omega))
  · exact store _ hlt

/-- The trackers after a sample: they follow it, and leak toward each other (43 R192). -/
theorem edgeDetect_trackers (d : Demodulator) (x : Sample) :
    (edgeDetect d x).2.ehi = BitVec.ofInt 16 (max x.toInt (d.ehi.toInt - envLeak d.ehi.toInt d.elo.toInt)) ∧
    (edgeDetect d x).2.elo = BitVec.ofInt 16 (min x.toInt (d.elo.toInt + envLeak d.ehi.toInt d.elo.toInt)) := by
  unfold edgeDetect
  dsimp only
  split_ifs <;> exact ⟨rfl, rfl⟩

/-- The leak never closes the envelope past itself. -/
theorem envLeak_bounds {hi lo : Int} (h : lo ≤ hi) : 0 ≤ envLeak hi lo ∧ envLeak hi lo ≤ hi - lo := by
  unfold envLeak
  dsimp only
  split_ifs <;> omega

/-- The sample lies between the trackers it has moved, so the envelope stays ordered. -/
theorem edgeDetect_ordered {d : Demodulator} (x : Sample) (h : d.elo.toInt ≤ d.ehi.toInt) :
    (edgeDetect d x).2.elo.toInt ≤ (edgeDetect d x).2.ehi.toInt := by
  obtain ⟨hhi, hlo⟩ := edgeDetect_trackers d x
  obtain ⟨hleak, hopen⟩ := envLeak_bounds h
  have range (v : Sample) : -32768 ≤ v.toInt ∧ v.toInt < 32768 := ⟨BitVec.le_toInt v, BitVec.toInt_lt⟩
  have hx := range x
  have hd := range d.ehi
  have hd' := range d.elo
  rw [hhi, hlo, BitVec.toInt_ofInt_eq_self (by decide) (by omega) (by omega),
    BitVec.toInt_ofInt_eq_self (by decide) (by omega) (by omega)]
  omega

theorem demodEdge_inRange (x : Sample) {s : State} (h : ReceiveInRange s) : ReceiveInRange (demodEdge x s) := by
  rw [demodEdge_eq]
  exact h.withDem (edgeDetect_ordered x h.envelope)

theorem smpIn_inRange (x : Sample) {s : State} (hr : s.run.runRecv = true) (hk : s.cfgOk = true)
    (h : ReceiveInRange s) : ReceiveInRange (smpIn x s) := by
  have hedge := demodEdge_inRange x (rxTickgen_inRange h hk)
  unfold smpIn
  rw [if_neg (by rw [hr]; exact Bool.noConfusion)]
  dsimp only
  split
  · exact onEdge_inRange (hedge.withDem hedge.envelope)
  · exact hedge.withDem hedge.envelope

theorem smpIn_sound (x : Sample) {s : State} (hs : SoundState s) : SoundState (smpIn x s) := by
  cases hr : s.run.runRecv with
  | false =>
    have hoff : smpIn x s = s := if_pos hr
    rw [hoff]
    exact hs
  | true =>
    have hrx : Receiving s := by
      rcases runState_of_sound hs with h | h | h
      · exact absurd (h.runRecv.symm.trans hr) Bool.false_ne_true
      · exact absurd (h.runRecv.symm.trans hr) Bool.false_ne_true
      · exact h
    obtain ⟨hrun, hcreg, hops, hresult, -, hmod, -⟩ := smpIn_frame x s
    have hrange := smpIn_inRange x hr hrx.valid hrx.receive
    have hres : ReservedBitsZero (smpIn x s) := by
      obtain ⟨hctrl, hcfg, hubits, hflags, hfb2, -, hzero⟩ := hs.1
      rw [ReservedBitsZero, hrun, hcreg, hops, hresult]
      exact ⟨hctrl, hcfg, hubits, hflags, hfb2, hrange.sync.rxflags, hzero⟩
    have hreceiving : Receiving (smpIn x s) := by
      refine ⟨?_, ?_, ?_, ?_, hmod.trans hrx.mod, hrange, (cfgOk_congr hcreg).trans hrx.valid⟩
      · rw [hrun]; exact hrx.runEmit
      · rw [hrun]; exact hr
      · rw [State.enOut, hrun]; exact hrx.enOut
      · rw [State.enIn, hrun]; exact hrx.enIn
    exact hreceiving.sound hres

/-! ### The step -/

/-- Every event keeps a sound state sound. -/
theorem eventResult_sound {s t : State} {i : Instr} (h : EventResult s i t) (hs : SoundState s) : SoundState t := by
  cases h with
  | rst => exact resetCore_sound s
  | regWr d hctrl hcmd => exact writeOffset_sound hs d hctrl hcmd
  | regWrCtrl eo ei => exact ctrlWrite_sound eo ei hs
  | regWrCmd op => exact runCommand_sound op hs
  | regRd a => exact hs
  | smpIn x => exact smpIn_sound x hs
  | smpOut => exact smpOut_sound hs
  | posIdx v => exact hs
  | posMs v => exact hs
  | devErr => exact devErr_sound hs

/-- Settles O57: the invariant reads neither the waiting events nor the value returned, and every event keeps it. -/
theorem everyStepKeepsTheStateSound : Obligations.EveryStepKeepsTheStateSound := by
  unfold Obligations.EveryStepKeepsTheStateSound
  intro s t hs hstep
  rcases eventResult_of_step hstep with rfl | ⟨w, rest, -, hev⟩
  · exact hs
  · exact eventResult_sound hev hs

end Sys2Proof.Proofs

namespace Sys2Proof.Proofs

open Sys2Proof.Machine

/-! The encodings of the core (spec/30_encoding.md): the rows of the three formats and the words they are written as. -/

/-! ### Commands, `F-CMD` (30 R120) -/

/-- The low bits of a reserved opcode are the operand of its row, and no row reaches into the next. -/
theorem decodeOpcode_reserved0C (lo : BitVec 2) : decodeOpcode (0x0C#8 ||| lo.setWidth 8) = .reservedCmd0C lo := by
  revert lo; decide

theorem decodeOpcode_reserved10 (lo : BitVec 4) : decodeOpcode (0x10#8 ||| lo.setWidth 8) = .reservedCmd10 lo := by
  revert lo; decide

theorem decodeOpcode_reserved20 (lo : BitVec 5) : decodeOpcode (0x20#8 ||| lo.setWidth 8) = .reservedCmd20 lo := by
  revert lo; decide

theorem decodeOpcode_reserved40 (lo : BitVec 6) : decodeOpcode (0x40#8 ||| lo.setWidth 8) = .reservedCmd40 lo := by
  revert lo; decide

theorem decodeOpcode_reserved80 (lo : BitVec 7) : decodeOpcode (0x80#8 ||| lo.setWidth 8) = .reservedCmd80 lo := by
  revert lo; decide

/-- The opcode is the low byte of the word written to `CMD`. -/
@[simp] theorem setWidth_cmdWord (op : BitVec 8) : (cmdWord op).setWidth 8 = op := by
  rw [cmdWord, BitVec.setWidth_setWidth_of_le _ (by decide), BitVec.setWidth_eq]

theorem decode_cmdWord (op : BitVec 8) : decode (.cmd (cmdWord op)) = .ok (decodeOpcode op) := by
  rw [decode, decodeCmd, setWidth_cmdWord]

/-! ### Events, `F-STIM` (30 R125) -/

section Events

variable (a : Offset) (d : Reg32)

@[simp] theorem decodeStim_rst : decodeStim (stimWord 0x0#4 a d) = .rst := by
  simp [decodeStim]

@[simp] theorem decodeStim_regWrCtrl :
    decodeStim (stimWord 0x1#4 0x000#12 d) = .regWrCtrl (d.getLsbD 0) (d.getLsbD 1) := by
  simp [decodeStim]

@[simp] theorem decodeStim_regWrCmd : decodeStim (stimWord 0x1#4 0x03C#12 d) = .regWrCmd (d.setWidth 8) := by
  simp [decodeStim]

theorem decodeStim_regWr {a : Offset} (hctrl : a ≠ 0x000#12) (hcmd : a ≠ 0x03C#12) :
    decodeStim (stimWord 0x1#4 a d) = .regWr a d := by
  simp [decodeStim, hctrl, hcmd]

@[simp] theorem decodeStim_regRd : decodeStim (stimWord 0x2#4 a d) = .regRd a := by
  simp [decodeStim]

@[simp] theorem decodeStim_smpIn : decodeStim (stimWord 0x3#4 a d) = .smpIn (d.setWidth 16) := by
  simp [decodeStim]

@[simp] theorem decodeStim_smpOut : decodeStim (stimWord 0x4#4 a d) = .smpOut := by
  simp [decodeStim]

@[simp] theorem decodeStim_posIdx : decodeStim (stimWord 0x5#4 a d) = .posIdx d := by
  simp [decodeStim]

@[simp] theorem decodeStim_posMs : decodeStim (stimWord 0x6#4 a d) = .posMs d := by
  simp [decodeStim]

@[simp] theorem decodeStim_devErr : decodeStim (stimWord 0x7#4 a d) = .devErr := by
  simp [decodeStim]

/-- The eight reserved kinds share a row, whose operand is the low three bits of the kind. -/
@[simp] theorem decodeStim_reservedKind (k : BitVec 3) :
    decodeStim (stimWord (0x8#4 ||| k.setWidth 4) a d) = .reservedKind k a d := by
  have hkind : 8 ≤ (0x8#4 ||| k.setWidth 4).toNat := by revert k; decide
  have hlow : (0x8#4 ||| k.setWidth 4).setWidth 3 = k := by revert k; decide
  simp only [decodeStim, stimWord_kind, stimWord_addr, stimWord_data, stimWord_kind_low, hlow]
  split
  case h_9 => rfl
  all_goals omega

end Events

@[simp] theorem decodeStim_cmdStim (w : Reg32) : decodeStim (cmdStim w) = .regWrCmd (w.setWidth 8) :=
  decodeStim_regWrCmd w

/-- The two enable bits of a `CTRL` write are read back. -/
theorem decodeStim_regWrCtrl_bits (enOut enIn : Bool) :
    decodeStim (stimWord 0x1#4 0x000#12 (bitAt 32 0 enOut ||| bitAt 32 1 enIn)) = .regWrCtrl enOut enIn := by
  simp

/-- The sample of `SMP.IN` survives its sign extension to the data field. -/
theorem setWidth_signExtend_sample (x : Sample) : (x.signExtend 32).setWidth 16 = x := by
  apply BitVec.eq_of_getLsbD_eq
  intro i hi
  have hdata : i < 32 := by omega
  rw [BitVec.getLsbD_setWidth, BitVec.getLsbD_signExtend]
  simp [hi, hdata]

/-! ### The round trip -/

/-- Settles O1: each row's word by the equation of its kind or opcode, a frame by its fields. -/
theorem decodeOfEncodeIsTheInstruction : Obligations.DecodeOfEncodeIsTheInstruction := by
  unfold Obligations.DecodeOfEncodeIsTheInstruction
  intro i c hwf henc
  cases i <;> cases henc
  case regWr a d =>
    simp only [Instr.wf, Bool.and_eq_true, decide_eq_true_eq] at hwf
    obtain ⟨hctrl, hcmd⟩ := hwf
    rw [decode_stim, decodeStim_regWr d hctrl hcmd]
  case reservedCmd0C lo => rw [decode_cmdWord, decodeOpcode_reserved0C]
  case reservedCmd10 lo => rw [decode_cmdWord, decodeOpcode_reserved10]
  case reservedCmd20 lo => rw [decode_cmdWord, decodeOpcode_reserved20]
  case reservedCmd40 lo => rw [decode_cmdWord, decodeOpcode_reserved40]
  case reservedCmd80 lo => rw [decode_cmdWord, decodeOpcode_reserved80]
  case rst => rw [decode_stim, decodeStim_rst]
  case regRd a => rw [decode_stim, decodeStim_regRd]
  case smpIn x => rw [decode_stim, decodeStim_smpIn, setWidth_signExtend_sample]
  case smpOut => rw [decode_stim, decodeStim_smpOut]
  case posIdx v => rw [decode_stim, decodeStim_posIdx]
  case posMs v => rw [decode_stim, decodeStim_posMs]
  case devErr => rw [decode_stim, decodeStim_devErr]
  case reservedKind k a d => rw [decode_stim, decodeStim_reservedKind]
  case regWrCtrl eo ei => rw [decode_stim, decodeStim_regWrCtrl_bits]
  case regWrCmd op => rw [decode_stim, decodeStim_cmdStim, setWidth_cmdWord]
  case ltcFrame w => rw [decode, syncok_ltcBits, if_pos rfl, ltcFields_ltcBits]
  all_goals rfl

/-! ### Canonical rows -/

/-- The instruction is well formed and has a word. -/
structure HasWord (i : Instr) : Prop where
  wf : i.wf = true
  word : ∃ c, encode i = some c

theorem hasWord_decodeOpcode (op : BitVec 8) : HasWord (decodeOpcode op) := by
  unfold decodeOpcode
  split
  case h_13 => split_ifs <;> exact ⟨rfl, _, rfl⟩
  all_goals exact ⟨rfl, _, rfl⟩

/-- A plain `REG.WR` is read only at the offsets that have no row of their own. -/
theorem hasWord_decodeStim (w : Stim) : HasWord (decodeStim w) := by
  unfold decodeStim
  dsimp only
  split
  case h_2 =>
    split_ifs with hctrl hcmd
    · exact ⟨rfl, _, rfl⟩
    · exact ⟨rfl, _, rfl⟩
    · exact ⟨by simp only [Instr.wf, Bool.and_eq_true, decide_eq_true_eq]; exact ⟨hctrl, hcmd⟩, _, rfl⟩
  all_goals exact ⟨rfl, _, rfl⟩

theorem hasWord_of_decode {c : CodeWord} {i : Instr} (h : decode c = .ok i) : HasWord i := by
  cases c with
  | stim w => cases h; exact hasWord_decodeStim w
  | cmd w => cases h; exact hasWord_decodeOpcode _
  | ltc b =>
    rw [decode] at h
    split at h
    · cases h; exact ⟨rfl, _, rfl⟩
    · cases h

/-- Settles O2: what the decoder reads is well formed and has a word, which the round trip reads back. -/
theorem decodedInstructionsAreCanonical : Obligations.DecodedInstructionsAreCanonical := by
  unfold Obligations.DecodedInstructionsAreCanonical
  intro c i hdec
  obtain ⟨hwf, c', henc⟩ := hasWord_of_decode hdec
  exact ⟨hwf, c', henc, decodeOfEncodeIsTheInstruction i c' hwf henc⟩

/-- Settles O3, by running the decoder on the nine words. -/
theorem wordsFromTheSpecDecode : Obligations.WordsFromTheSpecDecode :=
  ⟨rfl, rfl, rfl, rfl, rfl, rfl, rfl, by decide, rfl⟩

end Sys2Proof.Proofs

namespace Sys2Proof.Proofs

open Sys2Proof.Machine

/-! The meaning of an encoded word (spec/30_encoding.md): the command register (R120, R121) and the refused kinds
(R125). -/

/-! ### The command register -/

/-- The rows of the opcode map that are no command (30 R121). -/
inductive ReservedRow : Instr → Prop
  | cmd0B : ReservedRow .reservedCmd0B
  | cmd0C (lo : BitVec 2) : ReservedRow (.reservedCmd0C lo)
  | cmd10 (lo : BitVec 4) : ReservedRow (.reservedCmd10 lo)
  | cmd20 (lo : BitVec 5) : ReservedRow (.reservedCmd20 lo)
  | cmd40 (lo : BitVec 6) : ReservedRow (.reservedCmd40 lo)
  | cmd80 (lo : BitVec 7) : ReservedRow (.reservedCmd80 lo)

theorem exec_reservedRow {i : Instr} (h : ReservedRow i) (s : State) : exec i s = .next (cmdReserved s) := by
  cases h <;> rfl

/-- Every opcode from 0x0B up is in one of the reserved rows. -/
theorem decodeOpcode_reserved {op : BitVec 8} (h : 0x0B ≤ op.toNat) : ReservedRow (decodeOpcode op) := by
  unfold decodeOpcode
  split
  case h_12 => exact .cmd0B
  case h_13 =>
    split_ifs
    · exact .cmd0C _
    · exact .cmd10 _
    · exact .cmd20 _
    · exact .cmd40 _
    · exact .cmd80 _
  all_goals omega

theorem runCommand_reserved {op : BitVec 8} (h : 0x0B ≤ op.toNat) (s : State) :
    runCommand op s = cmdReserved s := by
  unfold runCommand
  split
  case h_12 => rfl
  all_goals omega

/-- The row of an opcode means what the command register does with the opcode. -/
theorem exec_decodeOpcode (op : BitVec 8) (s : State) : exec (decodeOpcode op) s = .next (runCommand op s) := by
  rcases Nat.lt_or_ge op.toNat 0x0B with h | h
  · unfold decodeOpcode runCommand
    generalize op.toNat = n at h
    interval_cases n <;> rfl
  · rw [exec_reservedRow (decodeOpcode_reserved h), runCommand_reserved h]

theorem exec_regWrCmd (op : BitVec 8) (s : State) : exec (.regWrCmd op) s = .next (runCommand op s) := rfl

/-- `CMDERR` is bit 5 of `RESULT` (10 R26). -/
theorem cmdReserved_eq_cmderr (s : State) : cmdReserved s = { s with result := 0x00000020#32 } := by
  have hcode : resultCmdErr = 0x00000020#32 := by decide
  rw [cmdReserved_eq, hcode]

/-- Settles O4: all three forms are `runCommand` or `ctrlWrite` of the same operands. -/
theorem commandRegisterPerformsTheOpcode : Obligations.CommandRegisterPerformsTheOpcode := by
  unfold Obligations.CommandRegisterPerformsTheOpcode
  refine ⟨fun op s => ⟨runCommand op s, exec_regWrCmd op s, exec_decodeOpcode op s⟩, fun d s => ?_, fun d s => rfl⟩
  exact (exec_decodeOpcode (d.setWidth 8) s).symm

/-- Settles O14: through the register and through its row a reserved opcode is `cmdReserved`. -/
theorem reservedOpcodesOnlySetCmderr : Obligations.ReservedOpcodesOnlySetCmderr := by
  unfold Obligations.ReservedOpcodesOnlySetCmderr
  simp only [← cmdReserved_eq_cmderr]
  refine ⟨fun op s h => ⟨?_, exec_reservedRow (decodeOpcode_reserved h) s⟩, fun s => exec_reservedRow .cmd0B s,
    fun lo s => exec_reservedRow (.cmd0C lo) s, fun lo s => exec_reservedRow (.cmd10 lo) s,
    fun lo s => exec_reservedRow (.cmd20 lo) s, fun lo s => exec_reservedRow (.cmd40 lo) s,
    fun lo s => exec_reservedRow (.cmd80 lo) s⟩
  rw [exec_regWrCmd, runCommand_reserved h]

/-! ### Refused words -/

/-- A word is no event exactly when its kind is one of the upper eight. -/
theorem noEvent_iff (w : Stim) : NoEvent w ↔ 8 ≤ (w.extractLsb' 44 4).toNat := by
  have hmsb : w.getLsbD 47 = (w.extractLsb' 44 4).msb := by
    rw [BitVec.msb_eq_getLsbD_last, BitVec.getLsbD_extractLsb']
    rfl
  rw [NoEvent, hmsb, BitVec.msb_eq_decide, decide_eq_true_eq]

/-- A word of a reserved kind is refused, with its kind. -/
theorem decodeStim_of_noEvent {w : Stim} (h : NoEvent w) :
    decodeStim w = .reservedKind (w.extractLsb' 44 3) (w.extractLsb' 32 12) (w.extractLsb' 0 32) := by
  rw [noEvent_iff] at h
  unfold decodeStim
  split
  case h_9 => rfl
  all_goals omega

/-- Every other word is an event, and every event has a next state. -/
theorem exec_next_of_event {w : Stim} (h : ¬NoEvent w) (s : State) : ∃ t, exec (decodeStim w) s = .next t := by
  rw [noEvent_iff] at h
  unfold decodeStim
  dsimp only
  split
  case h_2 => split_ifs <;> exact ⟨_, rfl⟩
  case h_9 =>
    have := (w.extractLsb' 44 4).isLt
    generalize (w.extractLsb' 44 4).toNat = k at *
    interval_cases k <;> contradiction
  all_goals exact ⟨_, rfl⟩

/-- The two outcomes of a step (30 R125, 60 R360): a next state, or the refusal of a word that is no event. -/
theorem step_outcome (s : State) :
    (∃ t, step s = .next t) ∧ (¬∃ w rest, s.events = w :: rest ∧ NoEvent w) ∨
    (∃ r, step s = .refused r) ∧ ∃ w rest, s.events = w :: rest ∧ NoEvent w := by
  cases hev : s.events with
  | nil => exact .inl ⟨⟨s, step_nil hev⟩, fun ⟨_, _, h, _⟩ => List.cons_ne_nil _ _ h.symm⟩
  | cons w rest =>
    rw [step_cons hev]
    by_cases h : NoEvent w
    · rw [decodeStim_of_noEvent h]
      exact .inr ⟨⟨_, rfl⟩, w, rest, rfl, h⟩
    · refine .inl ⟨exec_next_of_event h _, ?_⟩
      rintro ⟨_, _, heq, hno⟩
      cases heq
      exact h hno

/-- Settles O7, by the two outcomes of a step; there is no `Fault`. -/
theorem onlyReservedKindsStop : Obligations.OnlyReservedKindsStop := by
  unfold Obligations.OnlyReservedKindsStop
  refine ⟨fun s f => (nomatch f), fun s => ?_, fun k a d s => ⟨0x8#4 ||| k.setWidth 4, rfl, ?_⟩⟩
  · rcases step_outcome s with ⟨⟨t, h⟩, hev⟩ | ⟨hr, hno⟩
    · refine ⟨fun ⟨r, hr⟩ => ?_, fun hno => absurd hno hev⟩
      rw [h] at hr
      cases hr
    · exact ⟨fun _ => hno, fun _ => hr⟩
  · revert k; decide

end Sys2Proof.Proofs

namespace Sys2Proof.Proofs

open Sys2Proof.Machine

/-! The frame on the line (spec/30_encoding.md, R101 to R109): the bits it carries, its reception and its placement. -/

/-! ### The bits a frame does not carry (30 R105, R106) -/

/-- The bits outside `carriedBits`, field by field: the unassigned bits 27, 43, 58 and 59, and the user groups 5 to
8. -/
theorem uncarried_bit {i : Nat} (hi : i < 80) (h : carriedBits.getLsbD i = false) :
    i = 27 ∨ i = 43 ∨ i = 58 ∨ i = 59 ∨
    (36 ≤ i ∧ i < 36 + 4) ∨ (44 ≤ i ∧ i < 44 + 4) ∨ (52 ≤ i ∧ i < 52 + 4) ∨ (60 ≤ i ∧ i < 60 + 4) := by
  revert i; decide

theorem getLsbD_of_field_zero {w p n i : Nat} {b : BitVec w} (h : b.extractLsb' p n = 0#n) (hi : p ≤ i ∧ i < p + n) :
    b.getLsbD i = false := by
  obtain ⟨hlo, hhi⟩ := hi
  have hbit := congrArg (fun v : BitVec n => v.getLsbD (i - p)) h
  have hin : i - p < n := by omega
  have hpos : p + (i - p) = i := by omega
  simpa [hin, hpos] using hbit

/-- `encode` writes 0 in each of them. -/
theorem encodeFrame_uncarried (l : Label) (g : FlagFields) {i : Nat} (hi : i < 80)
    (h : carriedBits.getLsbD i = false) : (encodeFrame l g).getLsbD i = false := by
  have hw : ltcFields (encodeFrame l g) = _ := ltcFields_ltcBits _
  rcases uncarried_bit hi h with rfl | rfl | rfl | rfl | hi | hi | hi | hi
  · exact congrArg LtcWord.x27 hw
  · exact congrArg LtcWord.x43 hw
  · exact congrArg LtcWord.x58 hw
  · exact congrArg LtcWord.x59 hw
  · exact getLsbD_of_field_zero (congrArg LtcWord.ug5 hw) hi
  · exact getLsbD_of_field_zero (congrArg LtcWord.ug6 hw) hi
  · exact getLsbD_of_field_zero (congrArg LtcWord.ug7 hw) hi
  · exact getLsbD_of_field_zero (congrArg LtcWord.ug8 hw) hi

/-- Clearing the bits that are not carried clears the fields they make up and no other. -/
theorem ltcFields_carried (b : FrameBits) :
    ltcFields (b &&& carriedBits) =
      { ltcFields b with
        ug5 := 0, ug6 := 0, ug7 := 0, ug8 := 0, x27 := false, x43 := false, x58 := false, x59 := false } := by
  have kept {p n : Nat} (h : carriedBits.extractLsb' p n = BitVec.allOnes n) :
      (b &&& carriedBits).extractLsb' p n = b.extractLsb' p n := by
    rw [BitVec.extractLsb'_and, h, BitVec.and_allOnes]
  have cleared {p n : Nat} (h : carriedBits.extractLsb' p n = 0#n) : (b &&& carriedBits).extractLsb' p n = 0#n := by
    rw [BitVec.extractLsb'_and, h, BitVec.and_zero]
  have keptBit {i : Nat} (h : carriedBits.getLsbD i = true) : (b &&& carriedBits).getLsbD i = b.getLsbD i := by
    rw [BitVec.getLsbD_and, h, Bool.and_true]
  have clearedBit {i : Nat} (h : carriedBits.getLsbD i = false) : (b &&& carriedBits).getLsbD i = false := by
    rw [BitVec.getLsbD_and, h, Bool.and_false]
  simp only [ltcFields, LtcWord.mk.injEq]
  exact ⟨kept (by decide), kept (by decide), kept (by decide), keptBit (by decide), keptBit (by decide),
    kept (by decide), kept (by decide), kept (by decide), kept (by decide), clearedBit (by decide),
    kept (by decide), kept (by decide), cleared (by decide), kept (by decide), clearedBit (by decide),
    cleared (by decide), kept (by decide), cleared (by decide), kept (by decide), clearedBit (by decide),
    clearedBit (by decide), cleared (by decide)⟩

/-- `decode` reads none of the cleared fields (41 R145). -/
theorem decodeFrame_carried (b : FrameBits) (fn : Nat) : decodeFrame (b &&& carriedBits) fn = decodeFrame b fn := by
  have hsync : syncok (b &&& carriedBits) = syncok b := by
    have hones : carriedBits.extractLsb' 64 16 = BitVec.allOnes 16 := by decide
    rw [syncok, BitVec.extractLsb'_and, hones, BitVec.and_allOnes, syncok]
  rw [decodeFrame, hsync, ltcFields_carried]
  rfl

/-- Settles O21: `encode` writes the uncarried bits 0, and `decode` gives the same with them cleared. -/
theorem unassignedFrameBitsAreIgnored : Obligations.UnassignedFrameBitsAreIgnored := by
  unfold Obligations.UnassignedFrameBitsAreIgnored
  constructor
  · intro l g
    apply BitVec.eq_of_getLsbD_eq
    intro i hi
    rw [BitVec.getLsbD_and, BitVec.getLsbD_not, decide_eq_true hi, BitVec.getLsbD_zero]
    cases hc : carriedBits.getLsbD i with
    | true => simp
    | false => rw [encodeFrame_uncarried l g hi hc, Bool.false_and]
  · intro b b' fn hsame
    rw [← decodeFrame_carried b, hsame, decodeFrame_carried]

/-! ### Reception (30 R108) -/

/-- A frame that ends in the sync word leaves the detector at a frame boundary, whatever came before. -/
theorem shiftBits_aligns (r b : FrameBits) (hb : syncok b = true) (n : Nat) (hpos : 0 < n) (hn : n ≤ 80) (s : State)
    (hr : s.fbd.rxsr = windowAfter r b (80 - n)) : (shiftBits b n s).fbd.rxcnt = 0 := by
  induction n generalizing s with
  | zero => omega
  | succ n ih =>
    have hwin : shiftIn (b.getLsbD (79 - n)) s.fbd.rxsr = windowAfter r b (80 - n) := by
      have hk : 79 - n = 80 - (n + 1) := by omega
      have hk' : 80 - (n + 1) + 1 = 80 - n := by omega
      rw [hr, hk, shiftIn_windowAfter _ _ _ (by omega), hk']
    rcases Nat.eq_zero_or_pos n with rfl | hmore
    · have hwhole : shiftIn (b.getLsbD (79 - 0)) s.fbd.rxsr = b := hwin.trans (windowAfter_whole r b)
      show (fbdShift (b.getLsbD (79 - 0)) s).fbd.rxcnt = 0
      rcases fbdShift_cases (b.getLsbD (79 - 0)) s with ⟨-, h⟩ | ⟨-, -, h⟩ | ⟨-, hno, -⟩
      · rw [h]
      · rw [h]
      · rw [hwhole, hb] at hno
        cases hno
    · exact ih hmore (by omega) _ ((fbdShift_rxsr _ _).trans hwin)

/-- From a frame boundary, with no sync word before the 80th bit, a running receive path does with a frame what
`RX.DEC` does (43 R197). -/
theorem receiveFrame_quiet (w : LtcWord) {s : State} (hon : s.run.runRecv = true) (hcnt : s.fbd.rxcnt = 0)
    (hquiet : ∀ k, 0 < k → k < 80 → syncok (windowAfter s.fbd.rxsr (ltcBits w) k) = false) :
    receiveFrame w s = { rxDec { s with fbd := ⟨ltcBits w, 80#7⟩ } with fbd := ⟨ltcBits w, 0⟩ } := by
  have hfbd : s.fbd = ⟨windowAfter s.fbd.rxsr (ltcBits w) (80 - 80), BitVec.ofNat 7 (80 - 80)⟩ := by
    rw [windowAfter_zero]
    exact congrArg (Fbd.mk s.fbd.rxsr) hcnt
  rw [receiveFrame_on w hon]
  exact shiftBits_quiet s.fbd.rxsr (ltcBits w) 80 (by decide) le_rfl s hfbd hquiet

/-- `RX.DEC` of a frame that decodes. -/
theorem rxDec_of_ok {s : State} {f : LtcFrame} (h : decodeFrame s.fbd.rxsr (rateFn s.rate) = .ok f) :
    rxDec s = seFrame f s := by
  rw [rxDec, h]

/-- `RX.DEC` of a frame that does not. -/
theorem rxDec_of_error {s : State} {e : FrameError} (h : decodeFrame s.fbd.rxsr (rateFn s.rate) = .error e) :
    rxDec s = seFerr e s := by
  rw [rxDec, h]

/-- What `SE.FRAME` records: the count of good frames and the fields of this one; no error (45 R280). -/
theorem seFrame_records (f : LtcFrame) (s : State) :
    (seFrame f s).stat.okcnt = s.stat.okcnt + 1 ∧ unpackTime (seFrame f s).stat.rxtime = frameLabel f ∧
    unpackFlags (seFrame f s).stat.rxflags = frameFlags f ∧ (seFrame f s).stat.ferrcnt = s.stat.ferrcnt ∧
    (seFrame f s).err.lastferr = s.err.lastferr := by
  obtain ⟨_, _, _, _, _, h⟩ := seFrame_eq f s
  rw [h]
  exact ⟨rfl, unpackTime_packTime_frameLabel f, unpackFlags_packFlags _, rfl, rfl⟩

/-- What `SE.FERR` records: the count of bad frames and the code of this error (45 R285). -/
theorem seFerr_records (e : FrameError) (s : State) :
    (seFerr e s).stat.ferrcnt = s.stat.ferrcnt + 1 ∧ (seFerr e s).err.lastferr = ferrCode e ∧
    (seFerr e s).stat.okcnt = s.stat.okcnt := by
  obtain ⟨_, h⟩ := seFerr_eq e s
  rw [h]
  exact ⟨rfl, rfl, rfl⟩

/-- Settles O51, by induction on the bits for the register and its counter, and by `no_early_sync` for a frame that
decodes. -/
theorem receivedFrameFillsTheShiftRegister : Obligations.ReceivedFrameFillsTheShiftRegister := by
  unfold Obligations.ReceivedFrameFillsTheShiftRegister
  intro s w
  refine ⟨fun hoff => congrArg Host.Outcome.next (receiveFrame_off w hoff), fun hon => ?_, fun hon hcnt hnone => ?_,
    fun f hon hcnt hbefore hdec => ?_⟩
  · have hstart : s.fbd.rxsr = windowAfter s.fbd.rxsr (ltcBits w) (80 - 80) := (windowAfter_zero _ _).symm
    have hframe := shiftBits_frame (ltcBits w) 80 s
    refine ⟨shiftBits (ltcBits w) 80 s, congrArg Host.Outcome.next (receiveFrame_on w hon),
      shiftBits_rxsr _ _ 80 le_rfl s hstart, shiftBits_aligns _ _ (syncok_ltcBits w) 80 (by decide) le_rfl s hstart, ?_⟩
    exact ⟨hframe.run, hframe.creg, hframe.ops, hframe.result, hframe.mod, hframe.dem, hframe.rxtacc, hframe.deverr,
      hframe.pos, hframe.events, hframe.ret⟩
  · have hquiet : ∀ k, 0 < k → k < 80 → syncok (windowAfter s.fbd.rxsr (ltcBits w) k) = false := fun k h0 hk =>
      beq_eq_false_iff_ne.mpr (hnone k h0 hk)
    exact ⟨_, rfl, congrArg Host.Outcome.next (receiveFrame_quiet w hon hcnt hquiet)⟩
  · have hquiet : ∀ k, 0 < k → k < 80 → syncok (windowAfter s.fbd.rxsr (ltcBits w) k) = false :=
      no_early_sync (rateFn_le s.rate) hbefore hdec
    have hdec' : rxDec { s with fbd := ⟨ltcBits w, 80#7⟩ } = seFrame f { s with fbd := ⟨ltcBits w, 80#7⟩ } :=
      rxDec_of_ok hdec
    refine ⟨_, rfl, ?_, seFrame_records f _⟩
    rw [← hdec']
    exact congrArg Host.Outcome.next (receiveFrame_quiet w hon hcnt hquiet)

end Sys2Proof.Proofs

namespace Sys2Proof.Proofs

open Sys2Proof.Machine

/-! The placement of a table word where the next step takes it (spec/30_encoding.md, R125; log entries 5 and 8). -/

/-! ### The sample that completes a placed frame -/

/-- At 48000 samples per second an interval of 10 is one half-cell, and one of 22 a whole cell, at every rate
(43 R194). -/
theorem intervals_at_48000 {s : State} (h : s.creg.srate = 48000#32) :
    s.shortInterval 10 = true ∧ s.shortInterval 22 = false ∧ s.longInterval 22 = true := by
  unfold State.shortInterval State.longInterval State.rateA
  rw [h]
  cases s.rate <;> decide

/-- The frame in the register is whole when its last bit enters. -/
theorem shiftIn_last (b : FrameBits) : shiftIn (b.getLsbD 79) (b <<< 1) = b := by
  apply BitVec.eq_of_getLsbD_eq
  intro i hi
  rcases Nat.lt_or_ge i 79 with h | h
  · rw [shiftIn_low _ _ _ h, BitVec.getLsbD_shiftLeft]
    have hin : i + 1 < 80 := by omega
    simp [hin]
  · have hlast : i = 79 := by omega
    rw [hlast, shiftIn_top]

/-- The 80th bit hands the frame to `RX.DEC` (43 R197). -/
theorem fbdShift_last (b : FrameBits) {s : State} (h : s.fbd = ⟨b <<< 1, 79⟩) :
    fbdShift (b.getLsbD 79) s = { rxDec { s with fbd := ⟨b, 80#7⟩ } with fbd := ⟨b, 0⟩ } := by
  have hcnt : s.fbd.rxcnt + 1 = 80#7 := by rw [h]; rfl
  have hreg : shiftIn (b.getLsbD 79) s.fbd.rxsr = b := by rw [h]; exact shiftIn_last b
  rcases fbdShift_cases (b.getLsbD 79) s with ⟨-, heq⟩ | ⟨hne, -⟩ | ⟨hne, -⟩
  · rw [heq, hreg]
  · exact absurd hcnt hne
  · exact absurd hcnt hne

/-- The interval that ends the last cell of a frame: the second half-cell of a 1, or the whole cell of a 0. -/
def lastInterval (b : FrameBits) : Reg32 := if b.getLsbD 79 then 10#32 else 22#32

/-- The classifier reads the frame's last bit from it, and the frame is complete (43 R195). -/
theorem demodCls_last (b : FrameBits) {s : State} (hrate : s.creg.srate = 48000#32)
    (hhalf : s.dem.half = b.getLsbD 79) (hfbd : s.fbd = ⟨b <<< 1, 79⟩) :
    demodCls (lastInterval b) s =
      { rxDec { s with dem := { s.dem with half := false }, fbd := ⟨b, 80#7⟩ } with fbd := ⟨b, 0⟩ } := by
  obtain ⟨hshort, hnotShort, hlong⟩ := intervals_at_48000 hrate
  have hshift := fbdShift_last b (s := { s with dem := { s.dem with half := false } }) hfbd
  cases hbit : b.getLsbD 79 with
  | true =>
    have hd : (lastInterval b).toNat = 10 := by rw [lastInterval, hbit]; rfl
    rw [hbit] at hshift hhalf
    rw [demodCls, hd, hshort, if_pos rfl, if_pos hhalf]
    exact hshift
  | false =>
    have hd : (lastInterval b).toNat = 22 := by rw [lastInterval, hbit]; rfl
    rw [hbit] at hshift
    rw [demodCls, hd, hnotShort, if_neg Bool.false_ne_true, hlong, if_pos rfl]
    exact hshift

/-- The state in which the placed sample arrives, its event taken off the list. -/
def framePending (s : State) (b : FrameBits) : State := { pushFrame s b with events := s.events, ret := none }

theorem step_pushFrame (s : State) (b : FrameBits) :
    step (pushFrame s b) = .next (smpIn 0x4000#16 (framePending s b)) := by
  rw [step_cons (rest := s.events) rfl, decodeStim_smpIn]
  rfl

/-- No tick falls with the placed sample: a frame period is longer than a sample (43 R191). -/
theorem rxTickgen_framePending (s : State) (b : FrameBits) :
    ∃ a, rxTickgen (framePending s b) =
      { framePending s b with tb := { (framePending s b).tb with rxtacc := a } } := by
  have hlt : rateNum s.rate < 48000 * rateDen s.rate := by cases s.rate <;> decide
  rcases rxTickgen_cases (framePending s b) with ⟨hle, -⟩ | ⟨-, heq⟩
  · have hle' : 48000 * rateDen s.rate ≤ 0 + rateNum s.rate := hle
    omega
  · exact ⟨_, heq⟩

/-- The placed sample rises out of a closed envelope: an edge (43 R192). -/
theorem edgeDetect_rise {d : Demodulator} (hhi : d.ehi = 0) (hlo : d.elo = 0) (hlevel : d.dlvl = false) :
    (edgeDetect d 0x4000#16).1 = true := by
  unfold edgeDetect
  dsimp only
  rw [hhi, hlo, if_pos ⟨hlevel, by decide⟩]

/-- An edge after the first restarts the timer, and its interval is classified (43 R190). -/
theorem onEdge_classifies {s : State} (h : s.dem.tmrv = true) :
    ∃ d, onEdge s = { demodCls s.dem.tmr { s with dem := { s.dem with tmr := 0 } } with dem := d } := by
  unfold onEdge
  dsimp only
  split
  · exact ⟨_, rfl⟩
  · exact absurd h ‹_›

/-- A sample that brings no tick and is an edge (43 R190). -/
theorem smpIn_edge {x : Sample} {s : State} {a : BitVec 40} (hon : s.run.runRecv = true)
    (htick : rxTickgen s = { s with tb := { s.tb with rxtacc := a } }) (hedge : (edgeDetect s.dem x).1 = true) :
    smpIn x s =
      onEdge { s with
        tb := { s.tb with rxtacc := a }
        dem := { (edgeDetect s.dem x).2 with tmr := BitVec.ofNat 32 (sat32 (s.dem.tmr.toNat + 1)) } } := by
  obtain ⟨-, htmr, -⟩ := edgeDetect_spec s.dem x
  unfold smpIn
  rw [if_neg (by rw [hon]; exact Bool.noConfusion)]
  dsimp only
  rw [htick, if_pos hedge, ← htmr]
  rfl

/-- The placed sample hands the frame to `RX.DEC`, whose outcome is all that reaches the statistics and the errors. -/
theorem smpIn_framePending (s : State) (b : FrameBits) :
    ∃ v : State, (smpIn 0x4000#16 (framePending s b)).stat = (rxDec v).stat ∧
      (smpIn 0x4000#16 (framePending s b)).err = (rxDec v).err ∧
      (smpIn 0x4000#16 (framePending s b)).fbd = ⟨b, 0⟩ ∧
      v.fbd.rxsr = b ∧ v.rate = s.rate ∧ v.stat = s.stat := by
  obtain ⟨a, htick⟩ := rxTickgen_framePending s b
  have htmr : BitVec.ofNat 32 (sat32 ((framePending s b).dem.tmr.toNat + 1)) = lastInterval b := by
    show BitVec.ofNat 32 (sat32 ((if b.getLsbD 79 then 9#32 else 21#32).toNat + 1)) = lastInterval b
    unfold lastInterval
    cases b.getLsbD 79 <;> rfl
  obtain ⟨-, -, htmrv, hhalf⟩ := edgeDetect_spec (framePending s b).dem 0x4000#16
  rw [smpIn_edge rfl htick (edgeDetect_rise rfl rfl rfl), htmr]
  obtain ⟨d, hedge⟩ := onEdge_classifies (s := { framePending s b with
    tb := { (framePending s b).tb with rxtacc := a }
    dem := { (edgeDetect (framePending s b).dem 0x4000#16).2 with tmr := lastInterval b } }) htmrv
  rw [hedge, demodCls_last b rfl hhalf rfl]
  exact ⟨_, rfl, rfl, rfl, rfl, rfl, rfl⟩

/-! ### The next step -/

/-- A placed command is the `REG.WR` of `CMD` that issues it, with the meaning of its row. -/
theorem step_placedCommand (s : State) (w : Nat) :
    step (s.withFetchWord 8 w) = exec (decodeCmd (BitVec.ofNat 32 w)) { s with ret := none } := by
  have hplace : s.withFetchWord 8 w = pushEvent s (cmdStim (BitVec.ofNat 32 w)) := rfl
  rw [hplace, step_pushEvent, decodeStim_cmdStim, exec_regWrCmd, decodeCmd, exec_decodeOpcode]

theorem step_placedEvent (s : State) (w : Nat) :
    step (s.withFetchWord 48 w) = exec (decodeStim (BitVec.ofNat 48 w)) { s with ret := none } := rfl

theorem withFetchWord_frame (s : State) (b : FrameBits) : s.withFetchWord 80 b.toNat = pushFrame s b := by
  have hplace : s.withFetchWord 80 b.toNat = pushFrame s (BitVec.ofNat 80 b.toNat) := rfl
  rw [hplace, BitVec.ofNat_toNat, BitVec.setWidth_eq]

/-- Settles O6: a command and an event are the next word taken; a frame is completed by the placed sample. -/
theorem placedWordIsRunByTheNextStep : Obligations.PlacedWordIsRunByTheNextStep := by
  unfold Obligations.PlacedWordIsRunByTheNextStep
  refine ⟨fun s w => ⟨_, rfl, step_placedCommand s w⟩, fun s w => ⟨_, rfl, step_placedEvent s w⟩, fun s b => ?_⟩
  obtain ⟨v, hstat', herr', hfbd, hreg, hrate, hstat⟩ := smpIn_framePending s b
  rw [withFetchWord_frame]
  refine ⟨_, step_pushFrame s b, ?_⟩
  rw [hfbd, hstat', herr', ← hstat, ← hrate]
  refine ⟨rfl, rfl, fun f hdec => ?_, fun e hdec => ?_⟩
  · rw [← hreg] at hdec
    rw [rxDec_of_ok hdec]
    obtain ⟨hok, htime, hflags, hferr, -⟩ := seFrame_records f v
    exact ⟨hok, htime, hflags, hferr⟩
  · rw [← hreg] at hdec
    rw [rxDec_of_error hdec]
    exact seFerr_records e v

end Sys2Proof.Proofs

namespace Sys2Proof.Proofs

open Sys2Proof.Machine

/-! The frame codec (spec/41_frame_codec.md): the frame buffer, what `encode` writes and `decode` reads, and the three
commands on them. -/

/-! ### The frame buffer (10 R21) -/

/-- The bits of the 80-bit value, from the register that holds each. -/
theorem fb_getLsbD (s : State) (i : Nat) :
    s.fb.getLsbD i =
      if i < 32 then s.ops.fb0.getLsbD i
      else if i < 64 then s.ops.fb1.getLsbD (i - 32)
      else decide (i < 80) && s.ops.fb2.getLsbD (i - 64) := by
  have past {v : Reg32} {j : Nat} (h : 32 ≤ j) : v.getLsbD j = false := BitVec.getLsbD_of_ge v j h
  simp only [State.fb, BitVec.getLsbD_or, getLsbD_bitsAt, BitVec.getLsbD_setWidth]
  split
  case isTrue hlow => simp [show i < 80 by omega, show i < 64 by omega, hlow]
  case isFalse hlow =>
    split
    case isTrue hmid => simp [show i < 80 by omega, hmid, hlow, past (v := s.ops.fb0) (j := i) (by omega)]
    case isFalse hmid =>
      by_cases htop : i < 80
      · simp [htop, hmid, hlow, show i - 64 < 16 by omega, past (v := s.ops.fb0) (j := i) (by omega),
          past (v := s.ops.fb1) (j := i - 32) (by omega)]
      · simp [htop]

/-- A slice of the first 32 frame bits is a slice of `FB0`. -/
theorem fb_slice_fb0 (s : State) {p n : Nat} (h : p + n ≤ 32) :
    s.fb.extractLsb' p n = s.ops.fb0.extractLsb' p n := by
  apply BitVec.eq_of_getLsbD_eq
  intro i hi
  simp [fb_getLsbD, hi, show p + i < 32 by omega]

/-- A slice of the frame bits 32 to 63 is a slice of `FB1`. -/
theorem fb_slice_fb1 (s : State) {p n : Nat} (hlo : 32 ≤ p) (hhi : p + n ≤ 64) :
    s.fb.extractLsb' p n = s.ops.fb1.extractLsb' (p - 32) n := by
  apply BitVec.eq_of_getLsbD_eq
  intro i hi
  simp [fb_getLsbD, hi, show ¬p + i < 32 by omega, show p + i < 64 by omega, show p + i - 32 = p - 32 + i by omega]

/-- The last 16 frame bits are `FB2[15:0]`. -/
theorem fb_slice_fb2 (s : State) : s.fb.extractLsb' 64 16 = s.ops.fb2.extractLsb' 0 16 := by
  apply BitVec.eq_of_getLsbD_eq
  intro i hi
  rw [BitVec.getLsbD_extractLsb', BitVec.getLsbD_extractLsb', fb_getLsbD, if_neg (by omega), if_neg (by omega),
    decide_eq_true (show 64 + i < 80 by omega), Bool.true_and, Nat.add_sub_cancel_left, Nat.zero_add]

/-- A slice of `FB0` after a frame is loaded. -/
theorem putFb_fb0_slice (o : Operands) (b : FrameBits) {p n : Nat} (h : p + n ≤ 32) :
    (o.putFb b).fb0.extractLsb' p n = b.extractLsb' p n := by
  apply BitVec.eq_of_getLsbD_eq
  intro i hi
  simp [Operands.putFb, hi, show p + i < 32 by omega]

/-- A slice of `FB1` after a frame is loaded. -/
theorem putFb_fb1_slice (o : Operands) (b : FrameBits) {p n : Nat} (h : p + n ≤ 32) :
    (o.putFb b).fb1.extractLsb' p n = b.extractLsb' (32 + p) n := by
  apply BitVec.eq_of_getLsbD_eq
  intro i hi
  simp [Operands.putFb, hi, show p + i < 32 by omega, Nat.add_assoc]

theorem putFb_fb0_getLsbD (o : Operands) (b : FrameBits) {i : Nat} (h : i < 32) :
    (o.putFb b).fb0.getLsbD i = b.getLsbD i := by
  simp [Operands.putFb, h]

theorem syncok_iff (b : FrameBits) : syncok b = true ↔ b.extractLsb' 64 16 = syncWord := by
  simp [syncok]

/-- A frame that ends in the sync word leaves it alone in `FB2`. -/
theorem putFb_fb2_of_syncok (o : Operands) {b : FrameBits} (h : syncok b = true) : (o.putFb b).fb2 = 0x0000BFFC#32 := by
  rw [syncok_iff] at h
  show (b.extractLsb' 64 16).setWidth 32 = 0x0000BFFC#32
  rw [h]
  rfl

/-! ### Digits (41 R144, R145) -/

/-- The units and the tens of a number have it as their value. -/
theorem twoDigits_of_digits {m : Nat} {t : BitVec m} {u : BitVec 4} {v : Nat} (hu : u.toNat = v % 10)
    (ht : t.toNat = v / 10) : twoDigits t u = v := by
  rw [twoDigits, hu, ht, Nat.div_add_mod]

/-- The value of two digits fits a byte, the tens digit having two or three bits. -/
theorem twoDigits_lt_byte {m : Nat} (hm : m ≤ 3) (t : BitVec m) (u : BitVec 4) : twoDigits t u < 256 := by
  have ht : t.toNat < 2 ^ 3 := t.isLt.trans_le (Nat.pow_le_pow_right (by decide) hm)
  have hu := u.isLt
  unfold twoDigits
  omega

theorem twoDigits_toNat_byte {m : Nat} (hm : m ≤ 3) (t : BitVec m) (u : BitVec 4) :
    (BitVec.ofNat 8 (twoDigits t u)).toNat = twoDigits t u := by
  rw [BitVec.toNat_ofNat, Nat.mod_eq_of_lt (twoDigits_lt_byte hm t u)]

/-- The units digit of the value of two digits, kept in a byte. -/
theorem units_of_twoDigits {m : Nat} (hm : m ≤ 3) {t : BitVec m} {u : BitVec 4} (hu : u.toNat ≤ 9) :
    BitVec.ofNat 4 ((BitVec.ofNat 8 (twoDigits t u)).toNat % 10) = u := by
  have hdigit : twoDigits t u % 10 = u.toNat := by unfold twoDigits; omega
  rw [twoDigits_toNat_byte hm, hdigit, BitVec.ofNat_toNat, BitVec.setWidth_eq]

/-- The tens digit of the value of two digits, kept in a byte. -/
theorem tens_of_twoDigits {m : Nat} (hm : m ≤ 3) {t : BitVec m} {u : BitVec 4} (hu : u.toNat ≤ 9) :
    BitVec.ofNat m ((BitVec.ofNat 8 (twoDigits t u)).toNat / 10) = t := by
  have hdigit : twoDigits t u / 10 = t.toNat := by unfold twoDigits; omega
  rw [twoDigits_toNat_byte hm, hdigit, BitVec.ofNat_toNat, BitVec.setWidth_eq]

/-- Step 2 of `decode` as bounds (41 R146). -/
theorem badDigits_iff (w : LtcWord) :
    badDigits w = true ↔ 9 < w.fu.toNat ∨ 9 < w.su.toNat ∨ 9 < w.mu.toNat ∨ 9 < w.hu.toNat ∨
      5 < w.st.toNat ∨ 5 < w.mt.toNat ∨ 23 < 10 * w.ht.toNat + w.hu.toNat := by
  simp only [badDigits, Bool.or_eq_true, decide_eq_true_eq, or_assoc]
  rfl

/-- The units digits that pass step 2 of `decode`. -/
theorem units_le_of_not_bad {w : LtcWord} (h : badDigits w = false) :
    w.fu.toNat ≤ 9 ∧ w.su.toNat ≤ 9 ∧ w.mu.toNat ≤ 9 ∧ w.hu.toNat ≤ 9 := by
  have hnot := (badDigits_iff w).not.mp (by rw [h]; decide)
  omega

/-- The label of a word, whatever its digits: no time value is cut to its byte. -/
theorem frameLabel_wordFrame (w : LtcWord) :
    frameLabel (wordFrame w) =
      ⟨twoDigits w.ht w.hu, twoDigits w.mt w.mu, twoDigits w.st w.su, twoDigits w.ft w.fu⟩ := by
  simp only [frameLabel, wordFrame, twoDigits_toNat_byte (show 2 ≤ 3 by decide), twoDigits_toNat_byte le_rfl]

/-! ### What `encode` writes (41 R144) -/

/-- The digit fields of a frame hold the digits of a label. -/
structure HoldsDigits (w : LtcWord) (l : Label) : Prop where
  fu : w.fu.toNat = l.ff % 10
  ft : w.ft.toNat = l.ff / 10
  su : w.su.toNat = l.ss % 10
  st : w.st.toNat = l.ss / 10
  mu : w.mu.toNat = l.mm % 10
  mt : w.mt.toNat = l.mm / 10
  hu : w.hu.toNat = l.hh % 10
  ht : w.ht.toNat = l.hh / 10

/-- The digits of a label in range fit their fields. -/
theorem encodeFrame_digits {r : Rate} {l : Label} (g : FlagFields) (h : inrange l (rateFn r) = true) :
    HoldsDigits (ltcFields (encodeFrame l g)) l := by
  obtain ⟨hhh, hmm, hss, hff⟩ := (inrange_iff _ _).mp h
  have hfn := rateFn_le r
  have fits {n v : Nat} (hv : v < 2 ^ n) : (BitVec.ofNat n v).toNat = v := by
    rw [BitVec.toNat_ofNat, Nat.mod_eq_of_lt hv]
  have units (v : Nat) : (BitVec.ofNat 4 (v % 10)).toNat = v % 10 := fits (by omega)
  rw [encodeFrame, ltcFields_ltcBits]
  exact {
    fu := units _, su := units _, mu := units _, hu := units _
    ft := fits (by omega), st := fits (by omega)
    mt := fits (by omega), ht := fits (by omega) }

/-- The flags and user nibbles are copied. -/
theorem encodeFrame_flags (l : Label) (g : FlagFields) :
    frameFlags (wordFrame (ltcFields (encodeFrame l g))) = g := by
  rw [encodeFrame, ltcFields_ltcBits]
  rfl

theorem encodeFrame_syncok (l : Label) (g : FlagFields) : syncok (encodeFrame l g) = true := syncok_ltcBits _

/-- A slice made up of uncarried bits is written 0. -/
theorem encodeFrame_uncarried_slice (l : Label) (g : FlagFields) {p n : Nat} (hin : p + n ≤ 80)
    (h : carriedBits.extractLsb' p n = 0#n) : (encodeFrame l g).extractLsb' p n = 0#n := by
  apply BitVec.eq_of_getLsbD_eq
  intro i hi
  have hbit := getLsbD_of_field_zero h (i := p + i) (by omega)
  rw [BitVec.getLsbD_extractLsb', encodeFrame_uncarried l g (by omega) hbit, Bool.and_false, BitVec.getLsbD_zero]

/-! ### The round trip (41 R153) -/

/-- `decode` gives the fields of a frame that passes the three checks, and of no other (41 R146). -/
theorem decodeFrame_eq_ok_iff {b : FrameBits} {fn : Nat} {f : LtcFrame} :
    decodeFrame b fn = .ok f ↔
      syncok b = true ∧ badDigits (ltcFields b) = false ∧ twoDigits (ltcFields b).ft (ltcFields b).fu < fn ∧
        wordFrame (ltcFields b) = f := by
  rcases decodeFrame_cases b fn with ⟨hs, h⟩ | ⟨-, hbad, h⟩ | ⟨-, -, hge, h⟩ | ⟨hs, hgood, hff, h⟩ <;> rw [h]
  case inl => simp [hs]
  case inr.inl => simp [hbad]
  case inr.inr.inl => simp [Nat.not_lt.mpr hge]
  case inr.inr.inr => simp [hs, hgood, hff]

/-- The digits of a label in range are good and give the label back. -/
theorem HoldsDigits.decode {r : Rate} {l : Label} {w : LtcWord} (d : HoldsDigits w l)
    (h : inrange l (rateFn r) = true) :
    badDigits w = false ∧ twoDigits w.ft w.fu < rateFn r ∧ frameLabel (wordFrame w) = l := by
  obtain ⟨hhh, hmm, hss, hff⟩ := (inrange_iff _ _).mp h
  have hlabel : frameLabel (wordFrame w) = l := by
    rw [frameLabel_wordFrame, twoDigits_of_digits d.fu d.ft, twoDigits_of_digits d.su d.st,
      twoDigits_of_digits d.mu d.mt, twoDigits_of_digits d.hu d.ht]
  refine ⟨?_, by rwa [twoDigits_of_digits d.fu d.ft], hlabel⟩
  rw [← Bool.not_eq_true, badDigits_iff, d.fu, d.su, d.mu, d.hu, d.st, d.mt, d.ht]
  omega

/-- Decode of encode: the ten values of a label in range. -/
theorem decodeFrame_encodeFrame {r : Rate} {l : Label} (g : FlagFields) (h : inrange l (rateFn r) = true) :
    ∃ f, decodeFrame (encodeFrame l g) (rateFn r) = .ok f ∧ frameLabel f = l ∧ frameFlags f = g := by
  obtain ⟨hdigits, hff, hlabel⟩ := (encodeFrame_digits g h).decode h
  exact ⟨_, decodeFrame_eq_ok_iff.mpr ⟨encodeFrame_syncok l g, hdigits, hff, rfl⟩, hlabel, encodeFrame_flags l g⟩

/-- A slice of a word put back where it was taken. -/
theorem getLsbD_bitsAt_extractLsb' {w : Nat} (b : BitVec w) (p n i : Nat) :
    (bitsAt w p (b.extractLsb' p n)).getLsbD i = (decide (p ≤ i ∧ i < p + n) && b.getLsbD i) := by
  rw [getLsbD_bitsAt, BitVec.getLsbD_extractLsb']
  by_cases hin : p ≤ i ∧ i < p + n
  · by_cases hi : i < w
    · simp [hin, hi, show i - p < n by omega, show p + (i - p) = i by omega]
    · simp [hi, BitVec.getLsbD_of_ge b i (by omega)]
  · have hout : i < p ∨ ¬i - p < n := by omega
    rcases hout with h | h <;> simp [hin, h]

/-- A bit of a word put back where it was taken. -/
theorem getLsbD_bitAt_getLsbD {w : Nat} (b : BitVec w) (p i : Nat) :
    (bitAt w p (b.getLsbD p)).getLsbD i = (decide (i = p) && b.getLsbD i) := by
  rw [getLsbD_bitAt]
  by_cases h : i = p
  · subst h
    by_cases hi : i < w
    · simp [hi]
    · simp [hi, BitVec.getLsbD_of_ge b i (by omega)]
  · simp [h]

/-- A frame that ends in the sync word is given by its fields: they cover every bit below it (30 R101). -/
theorem ltcBits_ltcFields {b : FrameBits} (h : syncok b = true) : ltcBits (ltcFields b) = b := by
  rw [syncok_iff] at h
  apply BitVec.eq_of_getLsbD_eq
  intro i hi
  simp only [ltcBits, ltcFields, ← h, BitVec.getLsbD_or, getLsbD_bitsAt_extractLsb', getLsbD_bitAt_getLsbD,
    ← Bool.and_or_distrib_right, ← Bool.decide_or]
  rw [decide_eq_true (by omega), Bool.true_and]

/-- Encoding what a word with good digits says writes its fields again, those not carried as 0. -/
theorem encodeFrame_wordFrame {w : LtcWord} (h : badDigits w = false) :
    encodeFrame (frameLabel (wordFrame w)) (frameFlags (wordFrame w)) =
      ltcBits { w with
        ug5 := 0, ug6 := 0, ug7 := 0, ug8 := 0, x27 := false, x43 := false, x58 := false, x59 := false } := by
  obtain ⟨hfu, hsu, hmu, hhu⟩ := units_le_of_not_bad h
  have two : 2 ≤ 3 := by decide
  simp only [encodeFrame, frameLabel, frameFlags, wordFrame, units_of_twoDigits two hfu,
    units_of_twoDigits le_rfl hsu, units_of_twoDigits le_rfl hmu, units_of_twoDigits two hhu,
    tens_of_twoDigits two hfu, tens_of_twoDigits le_rfl hsu, tens_of_twoDigits le_rfl hmu, tens_of_twoDigits two hhu]

/-- Encode of decode: the frame without the bits it does not carry. -/
theorem encodeFrame_of_decodeFrame {b : FrameBits} {fn : Nat} {f : LtcFrame} (h : decodeFrame b fn = .ok f) :
    encodeFrame (frameLabel f) (frameFlags f) = b &&& carriedBits := by
  rw [← decodeFrame_carried, decodeFrame_eq_ok_iff] at h
  obtain ⟨hsync, hgood, -, rfl⟩ := h
  rw [encodeFrame_wordFrame hgood]
  calc _ = ltcBits (ltcFields (b &&& carriedBits)) := by rw [ltcFields_carried]
    _ = b &&& carriedBits := ltcBits_ltcFields hsync

/-- Settles O20: the digits of a label in range pass the checks, and a frame that passes them is given by its fields. -/
theorem frameRoundTrip : Obligations.FrameRoundTrip := by
  unfold Obligations.FrameRoundTrip
  exact ⟨fun _ _ g hin => decodeFrame_encodeFrame g hin, fun _ _ _ hok => encodeFrame_of_decodeFrame hok⟩

/-! ### `ENC` (41 R147) -/

theorem exec_enc (s : State) : exec .enc s = .next (cmdEnc s) := rfl

/-- `ENC` of a label in range. -/
theorem exec_enc_of_inrange {s : State} (h : inrange (unpackTime s.ops.fldTime) (rateFn s.rate) = true) :
    exec .enc s = .next { s with
      ops := s.ops.putFb (encodeFrame (unpackTime s.ops.fldTime) (unpackFlags s.ops.fldFlags)), result := 0 } := by
  rw [exec_enc, cmdEnc, if_pos h]
  rfl

/-- `ENC` of any other. -/
theorem exec_enc_of_not_inrange {s : State} (h : ¬inrange (unpackTime s.ops.fldTime) (rateFn s.rate) = true) :
    exec .enc s = .next { s with result := resultRange } := by
  rw [exec_enc, cmdEnc, if_neg h]
  rfl

/-- Settles O17: the slices of the registers are the fields of the encoded frame. -/
theorem encPacksTheFrame : Obligations.EncPacksTheFrame := by
  unfold Obligations.EncPacksTheFrame
  rintro s _ _ _ _ rfl rfl rfl rfl
  have hrange := inrange_iff (unpackTime s.ops.fldTime) (rateFn s.rate)
  refine ⟨fun hin => ?_, fun hout => exec_enc_of_not_inrange (hrange.not.mpr hout)⟩
  have d := encodeFrame_digits (unpackFlags s.ops.fldFlags) (hrange.mpr hin)
  have g := encodeFrame_flags (unpackTime s.ops.fldTime) (unpackFlags s.ops.fldFlags)
  have zero {p n : Nat} := encodeFrame_uncarried_slice (unpackTime s.ops.fldTime) (unpackFlags s.ops.fldFlags)
    (p := p) (n := n)
  refine ⟨(s.ops.putFb _).fb0, (s.ops.putFb _).fb1, (s.ops.putFb _).fb2, exec_enc_of_inrange (hrange.mpr hin), ?_⟩
  simp (disch := decide) only [putFb_fb0_slice, putFb_fb1_slice, putFb_fb0_getLsbD, Nat.reduceAdd]
  exact ⟨d.fu, congrArg FlagFields.ub0 g, d.ft, congrArg FlagFields.dfl g, congrArg FlagFields.cfl g,
    congrArg FlagFields.ub1 g, d.su, congrArg FlagFields.ub2 g, d.st,
    encodeFrame_uncarried _ _ (by decide) (by decide), congrArg FlagFields.ub3 g,
    d.mu, zero (by decide) (by decide), d.mt, zero (by decide) (by decide), d.hu, zero (by decide) (by decide), d.ht,
    zero (by decide) (by decide), putFb_fb2_of_syncok _ (encodeFrame_syncok _ _)⟩

/-! ### `DEC` (41 R148) -/

theorem exec_dec (s : State) : exec .dec s = .next (cmdDec s) := rfl

/-- `DEC` of a frame that fails a check. -/
theorem exec_dec_of_error {s : State} {e : FrameError} (h : decodeFrame s.fb (rateFn s.rate) = .error e) :
    exec .dec s = .next { s with result := resultSync (syncok s.fb) (ferrCode e) } := by
  rw [exec_dec, cmdDec, h]
  rfl

/-- `DEC` of a frame that passes. -/
theorem exec_dec_of_ok {s : State} {f : LtcFrame} (h : decodeFrame s.fb (rateFn s.rate) = .ok f) :
    exec .dec s = .next { s with
      ops := { s.ops with fldTime := packTime (frameLabel f), fldFlags := packFlags (frameFlags f) }
      result := resultSync (syncok s.fb) 0 } := by
  rw [exec_dec, cmdDec, h]
  rfl

/-- The fields of the frame buffer that `decode` reads, by register. -/
theorem ltcFields_fb (s : State) :
    (ltcFields s.fb).fu = s.ops.fb0.extractLsb' 0 4 ∧ (ltcFields s.fb).ft = s.ops.fb0.extractLsb' 8 2 ∧
    (ltcFields s.fb).su = s.ops.fb0.extractLsb' 16 4 ∧ (ltcFields s.fb).st = s.ops.fb0.extractLsb' 24 3 ∧
    (ltcFields s.fb).mu = s.ops.fb1.extractLsb' 0 4 ∧ (ltcFields s.fb).mt = s.ops.fb1.extractLsb' 8 3 ∧
    (ltcFields s.fb).hu = s.ops.fb1.extractLsb' 16 4 ∧ (ltcFields s.fb).ht = s.ops.fb1.extractLsb' 24 2 ∧
    (ltcFields s.fb).ug1 = s.ops.fb0.extractLsb' 4 4 ∧ (ltcFields s.fb).ug2 = s.ops.fb0.extractLsb' 12 4 ∧
    (ltcFields s.fb).ug3 = s.ops.fb0.extractLsb' 20 4 ∧ (ltcFields s.fb).ug4 = s.ops.fb0.extractLsb' 28 4 ∧
    (ltcFields s.fb).dfl = s.ops.fb0.getLsbD 10 ∧ (ltcFields s.fb).cfl = s.ops.fb0.getLsbD 11 := by
  have low {p n : Nat} := fb_slice_fb0 s (p := p) (n := n)
  have mid {p n : Nat} := fb_slice_fb1 s (p := p) (n := n)
  exact ⟨low (by decide), low (by decide), low (by decide), low (by decide), mid (by decide) (by decide),
    mid (by decide) (by decide), mid (by decide) (by decide), mid (by decide) (by decide), low (by decide),
    low (by decide), low (by decide), low (by decide), fb_getLsbD s 10, fb_getLsbD s 11⟩

theorem syncok_fb (s : State) : syncok s.fb = true ↔ s.ops.fb2.extractLsb' 0 16 = 0xBFFC#16 := by
  rw [syncok_iff, fb_slice_fb2, syncWord]

/-- The reserved bits of a packed flag register are 0. -/
theorem packFlags_reserved (g : FlagFields) : (packFlags g).extractLsb' 18 14 = 0#14 := by
  apply BitVec.eq_of_toNat_eq
  rw [BitVec.extractLsb'_toNat, Nat.shiftRight_eq_div_pow, Nat.div_eq_of_lt (packFlags_toNat_lt g)]
  rfl

/-- Settles O18, by the four outcomes of `decode`. -/
theorem decReportsTheFrameOrTheFirstError : Obligations.DecReportsTheFrameOrTheFirstError := by
  unfold Obligations.DecReportsTheFrameOrTheFirstError
  rintro s _ _ _ _ _ _ _ _ rfl rfl rfl rfl rfl rfl rfl rfl
  obtain ⟨hfu, hft, hsu, hst, hmu, hmt, hhu, hht, hug1, hug2, hug3, hug4, hdfl, hcfl⟩ := ltcFields_fb s
  rw [← hfu, ← hft, ← hsu, ← hst, ← hmu, ← hmt, ← hhu, ← hht, ← hug1, ← hug2, ← hug3, ← hug4, ← hdfl, ← hcfl]
  have hsync := syncok_fb s
  have hdigits := badDigits_iff (ltcFields s.fb)
  rcases decodeFrame_cases s.fb (rateFn s.rate) with
    ⟨hs, hdec⟩ | ⟨hs, hbad, hdec⟩ | ⟨hs, hgood, hff, hdec⟩ | ⟨hs, hgood, hff, hdec⟩ <;>
    simp only [hs, Bool.false_eq_true, false_iff, true_iff] at hsync
  case inl =>
    rw [if_pos hsync, exec_dec_of_error hdec, hs]
    rfl
  case inr.inl =>
    rw [if_neg (not_not.mpr hsync), if_pos (hdigits.mp hbad), exec_dec_of_error hdec, hs]
    rfl
  all_goals
    rw [if_neg (not_not.mpr hsync), if_neg (hdigits.not.mp (by rw [hgood]; decide))]
    unfold twoDigits at hff
  case inr.inr.inl =>
    rw [if_pos hff, exec_dec_of_error hdec, hs]
    rfl
  case inr.inr.inr =>
    have hexec := exec_dec_of_ok hdec
    rw [hs] at hexec
    have htime := (unpackTime_packTime_frameLabel _).trans (frameLabel_wordFrame (ltcFields s.fb))
    have hflags := unpackFlags_packFlags (frameFlags (wordFrame (ltcFields s.fb)))
    rw [if_neg (Nat.not_le.mpr hff)]
    exact ⟨_, _, hexec, congrArg Label.hh htime, congrArg Label.mm htime, congrArg Label.ss htime,
      congrArg Label.ff htime, congrArg FlagFields.ub0 hflags, congrArg FlagFields.ub1 hflags,
      congrArg FlagFields.ub2 hflags, congrArg FlagFields.ub3 hflags, congrArg FlagFields.dfl hflags,
      congrArg FlagFields.cfl hflags, packFlags_reserved _⟩

/-! ### `SYNCCHK` (41 R149) -/

/-- `SYNCCHK` writes `RESULT` alone. -/
theorem exec_syncchk (s : State) :
    exec .syncchk s = .next { s with result := resultSync (s.ops.fb2.extractLsb' 0 16 == syncWord) 0 } := rfl

/-- Settles O19, by the outcome of the comparison. -/
theorem syncchkComparesTheSyncWord : Obligations.SyncchkComparesTheSyncWord := by
  unfold Obligations.SyncchkComparesTheSyncWord
  intro s
  rw [exec_syncchk]
  constructor
  · intro hsync
    rw [hsync]
    rfl
  · intro hother
    rw [beq_eq_false_iff_ne.mpr (show _ ≠ syncWord from hother)]
    rfl

end Sys2Proof.Proofs

namespace Sys2Proof.Proofs

open Sys2Proof.Machine

/-! The modulator (spec/42_modulator.md): the length of a cell, the sample of a frame in progress, and the frame
boundary. -/

/-! ### `MOD.CELL` (42 R171) -/

theorem exec_modCell (s : State) : exec .modCell s = .next (modCell s) := rfl

theorem modCell_creg (s : State) : (modCell s).creg = s.creg := rfl

/-- The cell length is the quotient: 32 bits hold it. -/
theorem modCell_mlen (s : State) : (modCell s).mod.mlen.toNat = (s.mod.macc.toNat + s.rateA) / s.rateB := by
  rw [modCell_eq]
  exact (BitVec.toNat_ofNat _ _).trans (Nat.mod_eq_of_lt (cellLength_lt s))

/-- The carried remainder is the remainder: 18 bits hold it. -/
theorem modCell_macc (s : State) : (modCell s).mod.macc.toNat = (s.mod.macc.toNat + s.rateA) % s.rateB := by
  have hrem := Nat.mod_lt (s.mod.macc.toNat + s.rateA) (rateB_pos s)
  have hwidth := rateB_lt s
  rw [modCell_eq]
  exact (BitVec.toNat_ofNat _ _).trans (Nat.mod_eq_of_lt (by omega))

theorem modCell_macc_lt (s : State) : (modCell s).mod.macc.toNat < s.rateB := by
  rw [modCell_macc]
  exact Nat.mod_lt _ (rateB_pos s)

/-- The division law: what a cell takes and carries is what was carried to it and one cell's time. -/
theorem modCell_division (s : State) :
    (modCell s).mod.mlen.toNat * s.rateB + (modCell s).mod.macc.toNat = s.mod.macc.toNat + s.rateA := by
  rw [modCell_mlen, modCell_macc]
  exact Nat.div_add_mod' _ _

/-- Settles O37, by the division law of a cell. -/
theorem cellDividesTheAccumulatedTime : Obligations.CellDividesTheAccumulatedTime := by
  unfold Obligations.CellDividesTheAccumulatedTime
  intro s
  exact ⟨(modCell s).mod.mlen, (modCell s).mod.macc, exec_modCell s, modCell_division s, modCell_macc_lt s⟩

/-! ### The cell-length law (42 R174) -/

/-- The length of the first `k` cells, in samples. -/
def cellsLength (s : State) (k : Nat) : Nat := ((List.range k).map fun i => (modCell^[i + 1] s).mod.mlen.toNat).sum

theorem cellsLength_succ (s : State) (k : Nat) :
    cellsLength s (k + 1) = cellsLength s k + (modCell (modCell^[k] s)).mod.mlen.toNat := by
  simp [cellsLength, List.range_succ, Function.iterate_succ_apply']

theorem iterate_modCell_creg (s : State) (k : Nat) : (modCell^[k] s).creg = s.creg := by
  induction k with
  | zero => rfl
  | succ k ih => rw [Function.iterate_succ_apply', modCell_creg, ih]

theorem rateB_congr {s t : State} (h : t.creg = s.creg) : t.rateB = s.rateB := by
  unfold State.rateB; rw [rate_congr h]

/-- No time is lost over any number of cells: each takes from what the one before carried. -/
theorem cellsLength_division (s : State) (hclear : s.mod.macc = 0) (k : Nat) :
    cellsLength s k * s.rateB + (modCell^[k] s).mod.macc.toNat = k * s.rateA ∧
      (modCell^[k] s).mod.macc.toNat < s.rateB := by
  induction k with
  | zero => simpa [cellsLength, hclear] using rateB_pos s
  | succ k ih =>
    obtain ⟨hsum, -⟩ := ih
    have hcreg := iterate_modCell_creg s k
    have hcell := modCell_division (modCell^[k] s)
    have hlt := modCell_macc_lt (modCell^[k] s)
    rw [rateA_congr hcreg, rateB_congr hcreg] at hcell
    rw [rateB_congr hcreg] at hlt
    rw [cellsLength_succ, Function.iterate_succ_apply']
    refine ⟨?_, hlt⟩
    rw [Nat.add_mul, Nat.add_mul]
    omega

/-- Settles O38: what is still carried after `k` cells is the remainder of the division. -/
theorem cellLengthsNeverDrift : Obligations.CellLengthsNeverDrift := by
  unfold Obligations.CellLengthsNeverDrift
  intro s k hclear
  obtain ⟨hsum, hlt⟩ := cellsLength_division s hclear k
  show cellsLength s k = k * s.rateA / s.rateB
  rw [← hsum, Nat.mul_comm, Nat.mul_add_div (rateB_pos s), Nat.div_eq_of_lt hlt, Nat.add_zero]

/-! ### The interval windows (43 R194) -/

theorem shortInterval_iff (s : State) (d : Nat) :
    s.shortInterval d = true ↔ 3 * s.rateA ≤ 8 * (s.rateB * d) ∧ 8 * (s.rateB * d) ≤ 5 * s.rateA := by
  have hq : intervalQ s.rate d = 8 * (s.rateB * d) := by unfold intervalQ State.rateB; ring
  rw [State.shortInterval, hq, Bool.and_eq_true, decide_eq_true_eq, decide_eq_true_eq]

theorem longInterval_iff (s : State) (d : Nat) :
    s.longInterval d = true ↔ 7 * s.rateA ≤ 8 * (s.rateB * d) ∧ 8 * (s.rateB * d) ≤ 9 * s.rateA := by
  have hq : intervalQ s.rate d = 8 * (s.rateB * d) := by unfold intervalQ State.rateB; ring
  rw [State.longInterval, hq, Bool.and_eq_true, decide_eq_true_eq, decide_eq_true_eq]

/-- A cell is within one sample of its exact length. -/
theorem cellLength_near {s : State} (hmacc : s.mod.macc.toNat < s.rateB) :
    s.rateA < s.rateB * (modCell s).mod.mlen.toNat + s.rateB ∧
      s.rateB * (modCell s).mod.mlen.toNat < s.rateA + s.rateB := by
  have hdiv := modCell_division s
  have hrem := modCell_macc_lt s
  rw [Nat.mul_comm] at hdiv
  omega

/-- Half of such a cell, rounded down or up, is at most one sample off half the exact length, and so short. -/
theorem shortInterval_half {s : State} {n h : Nat} (hrate : 8 * s.rateB ≤ s.rateA)
    (hlow : s.rateA < s.rateB * n + s.rateB) (hhigh : s.rateB * n < s.rateA + s.rateB)
    (hdown : n ≤ 2 * h + 1) (hup : 2 * h ≤ n + 1) : s.shortInterval h = true := by
  have hdown' := Nat.mul_le_mul_left s.rateB hdown
  have hup' := Nat.mul_le_mul_left s.rateB hup
  rw [Nat.mul_add, Nat.mul_left_comm, Nat.mul_one] at hdown'
  rw [Nat.mul_add, Nat.mul_left_comm, Nat.mul_one] at hup'
  rw [shortInterval_iff]
  omega

/-- Settles O48: with `A ≥ 8·B` one sample is at most an eighth of a cell, and that is the width of the windows. -/
theorem modulatorIntervalsAreRecognised : Obligations.ModulatorIntervalsAreRecognised := by
  unfold Obligations.ModulatorIntervalsAreRecognised
  rintro s t n hok hmacc hexec rfl
  cases hexec
  have hrate := rateB_le_rateA hok
  have hB := rateB_pos s
  obtain ⟨hlow, hhigh⟩ := cellLength_near hmacc
  refine ⟨?_, (longInterval_iff _ _).mpr (by omega), ?_, shortInterval_half hrate hlow hhigh (by omega) (by omega),
    shortInterval_half hrate hlow hhigh (by omega) (by omega)⟩
  · rw [modCell_mlen, Nat.le_div_iff_mul_le hB]
    omega
  · rw [Bool.eq_false_iff, ne_eq, shortInterval_iff]
    omega

/-! ### A sample of a frame in progress (42 R170) -/

theorem exec_smpOut (s : State) : exec .smpOut s = .next (smpOut s) := rfl

theorem smpOut_of_frame {s : State} (hrun : s.run.runEmit = true) (hact : s.mod.mact = true) :
    smpOut s = emitSample s := by
  simpa [hrun, hact] using smpOut_cases s

/-- The modulator in the cell of the sample: a new cell is begun at its first sample. -/
def cellAtSample (s : State) : Modulator := if s.mod.mpos = 0 then (modCell s).mod else s.mod

theorem cellAtSample_first {s : State} (h : s.mod.mpos = 0) : cellAtSample s = (modCell s).mod := if_pos h

theorem cellAtSample_inside {s : State} (h : s.mod.mpos ≠ 0) : cellAtSample s = s.mod := if_neg h

/-- A new cell keeps the frame and the place in it. -/
theorem cellAtSample_keeps (s : State) :
    (cellAtSample s).mbits = s.mod.mbits ∧ (cellAtSample s).mbit = s.mod.mbit ∧
      (cellAtSample s).mpos = s.mod.mpos ∧ (cellAtSample s).mact = s.mod.mact := by
  by_cases h : s.mod.mpos = 0
  · rw [cellAtSample_first h]; exact ⟨rfl, rfl, rfl, rfl⟩
  · rw [cellAtSample_inside h]; exact ⟨rfl, rfl, rfl, rfl⟩

theorem cell_of_sample (s : State) :
    (if s.mod.mpos = 0 then modCell s else s) = { s with mod := cellAtSample s } := by
  unfold cellAtSample
  split <;> rfl

/-- `m` is the modulator `q` at the end of a sample: the level, the frame and the cell stay, the indices move on. -/
structure SampleEnded (q m : Modulator) : Prop where
  mlvl : m.mlvl = q.mlvl
  mbits : m.mbits = q.mbits
  mlen : m.mlen = q.mlen
  macc : m.macc = q.macc
  inside : q.mpos + 1 ≠ q.mlen → m.mpos = q.mpos + 1 ∧ m.mbit = q.mbit ∧ m.mact = q.mact
  cellEnd : q.mpos + 1 = q.mlen → q.mbit ≠ 79#7 → m.mpos = 0 ∧ m.mbit = q.mbit + 1 ∧ m.mact = q.mact
  frameEnd : q.mpos + 1 = q.mlen → q.mbit = 79#7 → m.mpos = 0 ∧ m.mbit = 0 ∧ m.mact = false

theorem advanceSample_ended (s : State) :
    ∃ m, advanceSample s = { s with mod := m } ∧ SampleEnded s.mod m := by
  have hlast : s.mod.mbit.toNat = 79 ↔ s.mod.mbit = 79#7 := BitVec.toNat_inj (y := 79#7)
  rcases advanceSample_cases s with ⟨hin, h⟩ | ⟨hend, hbit, h⟩ | ⟨hend, hbit, h⟩
  · exact ⟨_, h, rfl, rfl, rfl, rfl, fun _ => ⟨rfl, rfl, rfl⟩, fun e => absurd e hin, fun e => absurd e hin⟩
  · exact ⟨_, h, rfl, rfl, rfl, rfl, fun e => absurd hend e, fun _ _ => ⟨rfl, rfl, rfl⟩,
      fun _ e => absurd (hlast.mpr e) hbit⟩
  · exact ⟨_, h, rfl, rfl, rfl, rfl, fun e => absurd hend e, fun _ e => absurd (hlast.mp hbit) e,
      fun _ _ => ⟨rfl, rfl, rfl⟩⟩

/-- The level in a cell after its mid-cell transition, if there is one at this sample (42 R172, R175). -/
def levelAtSample (c : Modulator) : Bool :=
  c.mlvl ^^ (c.mbits.getLsbD c.mbit.toNat && decide (c.mpos.toNat = c.mlen.toNat / 2))

/-- A sample: the cell begins or goes on, the mid-cell transition falls, the level is put out, the indices move. -/
theorem emitSample_ended (s : State) :
    ∃ m, emitSample s = { s with mod := m, ret := some (.sample (sampleOf m.mlvl)) } ∧
      SampleEnded { cellAtSample s with mlvl := levelAtSample (cellAtSample s) } m := by
  unfold emitSample
  dsimp only
  rw [cell_of_sample, midToggle_eq]
  obtain ⟨m, hadv, hend⟩ :=
    advanceSample_ended { s with mod := { cellAtSample s with mlvl := levelAtSample (cellAtSample s) } }
  refine ⟨m, ?_, hend⟩
  rw [hend.mlvl]
  exact congrArg (State.putRet · _) hadv

/-- Settles O41: the cell is `cellAtSample`, its level `levelAtSample`, and the sample ends as `SampleEnded` says. -/
theorem sampleFollowsTheBiphaseLaw : Obligations.SampleFollowsTheBiphaseLaw := by
  unfold Obligations.SampleFollowsTheBiphaseLaw
  intro s hrun hact
  obtain ⟨m, hout, hend⟩ := emitSample_ended s
  obtain ⟨hlvl, hbits, hlen, hacc, hinside, hcell, hframe⟩ := hend
  obtain ⟨kbits, kbit, kpos, kact⟩ := cellAtSample_keeps s
  dsimp only [levelAtSample] at hlvl hbits hlen hacc hinside hcell hframe
  rw [kbits, kbit, kpos] at hlvl
  rw [kpos, kbit, kact, hact] at hinside hcell
  rw [kpos, kbit] at hframe
  refine ⟨m, cellAtSample s, sampleOf m.mlvl, ?_, cellAtSample_inside, fun h => ?_, hlvl, sampleOf_toInt _,
    hbits.trans kbits, hlen, hacc, hinside, hcell, hframe⟩
  · rw [exec_smpOut, smpOut_of_frame hrun hact, hout]
  · rw [cellAtSample_first h]
    rfl

/-! ### The frame boundary and the idle output (42 R170, R176) -/

theorem exec_emitNext (s : State) : exec .emitNext s = .next (emitNext s) := rfl

theorem exec_emitStop (s : State) : exec .emitStop s = .next (emitStop s) := rfl

theorem smpOut_of_boundary {s : State} (hrun : s.run.runEmit = true) (hact : s.mod.mact = false)
    (hout : s.enOut = true) : smpOut s = emitSample (emitNext s) := by
  simpa [hrun, hact, hout] using smpOut_cases s

theorem smpOut_of_drained {s : State} (hrun : s.run.runEmit = true) (hact : s.mod.mact = false)
    (hout : s.enOut = false) : smpOut s = { emitStop s with ret := some (.sample 0#16) } := by
  simpa [hrun, hact, hout] using smpOut_cases s

theorem smpOut_of_off {s : State} (hrun : s.run.runEmit = false) :
    smpOut s = { s with ret := some (.sample 0#16) } := by
  simpa [hrun] using smpOut_cases s

/-- Settles O40: `EMIT.NEXT` starts a frame and leaves the path running, so both samples are that frame's first. -/
theorem boundarySampleLoadsTheNextFrame : Obligations.BoundarySampleLoadsTheNextFrame := by
  unfold Obligations.BoundarySampleLoadsTheNextFrame
  intro s hrun hact hout
  refine ⟨emitNext s, emitSample (emitNext s), exec_emitNext s, rfl, rfl, rfl, ?_, ?_⟩
  · rw [exec_smpOut, smpOut_of_boundary hrun hact hout]
  · have hrun' : (emitNext s).run.runEmit = true := hrun
    rw [exec_smpOut, smpOut_of_frame hrun' rfl]

/-- Settles O39, by the two outcomes of `SMP.OUT` without a frame. -/
theorem idleOutputIsZero : Obligations.IdleOutputIsZero := by
  unfold Obligations.IdleOutputIsZero
  refine fun s => ⟨fun hoff => ?_, fun hrun hact hout => ⟨emitStop s, exec_emitStop s, rfl, ?_⟩⟩
  · rw [exec_smpOut, smpOut_of_off hoff]
  · rw [exec_smpOut, smpOut_of_drained hrun hact hout]

end Sys2Proof.Proofs

namespace Sys2Proof.Proofs

open Sys2Proof.Machine

/-! The receive path (spec/43_demodulator.md): each internal operation by the outcomes of its rule, then the sample
that fires them. -/

/-! ### The internal operations (43 R191 to R198) -/

theorem exec_rxTickgen (s : State) : exec .rxTickgen s = .next (rxTickgen s) := rfl

theorem exec_seTick (s : State) : exec .seTick s = .next (seTick s) := rfl

theorem exec_demodEdge (x : Sample) (s : State) : exec (.demodEdge x) s = .next (demodEdge x s) := rfl

theorem exec_demodCls (d : Reg32) (s : State) : exec (.demodCls d) s = .next (demodCls d s) := rfl

theorem exec_fbdShift (b : Bool) (s : State) : exec (.fbdShift b) s = .next (fbdShift b s) := rfl

theorem exec_rxDec (s : State) : exec .rxDec s = .next (rxDec s) := rfl

theorem exec_seFrame (f : LtcFrame) (s : State) : exec (.seFrame f) s = .next (seFrame f s) := rfl

theorem exec_seFerr (e : FrameError) (s : State) : exec (.seFerr e) s = .next (seFerr e s) := rfl

theorem exec_smpIn (x : Sample) (s : State) : exec (.smpIn x) s = .next (smpIn x s) := rfl

/-! ### The local tick (43 R191) -/

/-- `RXTACC` after a sample: `NUM` is added, and a whole frame period is taken off. -/
def tickRemainder (s : State) : Nat :=
  if s.tb.rxtacc.toNat + rateNum s.rate < s.rateA then s.tb.rxtacc.toNat + rateNum s.rate
  else s.tb.rxtacc.toNat + rateNum s.rate - s.rateA

/-- `RX.TICKGEN` ticks exactly when a frame period is full. -/
theorem rxTickgen_remainder (s : State) :
    rxTickgen s =
      if s.tb.rxtacc.toNat + rateNum s.rate < s.rateA then
        { s with tb := { s.tb with rxtacc := BitVec.ofNat 40 (tickRemainder s) } }
      else seTick { s with tb := { s.tb with rxtacc := BitVec.ofNat 40 (tickRemainder s) } } := by
  unfold tickRemainder
  rcases rxTickgen_cases s with ⟨hfull, h⟩ | ⟨hbelow, h⟩
  · rw [h, if_neg (by omega), if_neg (by omega)]
  · rw [h, if_pos hbelow, if_pos hbelow]

theorem rateNum_le (r : Rate) : rateNum r ≤ 2997 := by cases r <;> decide

/-- From an accumulator in its range the remainder fits the register: no width is lost. -/
theorem tickRemainder_fits {s : State} (h : s.tb.rxtacc.toNat < s.rateA) :
    (BitVec.ofNat 40 (tickRemainder s)).toNat = tickRemainder s := by
  have hA := rateA_lt s
  have hnum := rateNum_le s.rate
  rw [BitVec.toNat_ofNat, Nat.mod_eq_of_lt]
  unfold tickRemainder
  split <;> omega

/-- Settles O44: the two outcomes are those of `rxTickgen_remainder`, and the remainder fits `RXTACC`. -/
theorem tickFallsOncePerFramePeriod : Obligations.TickFallsOncePerFramePeriod := by
  unfold Obligations.TickFallsOncePerFramePeriod
  rintro s acc hrange rfl
  have htick := rxTickgen_remainder s
  refine ⟨BitVec.ofNat 40 (tickRemainder s), fun hbelow => ⟨?_, ?_⟩, fun hfull => ⟨?_, _, exec_seTick _, ?_⟩⟩
  · exact (tickRemainder_fits hrange).trans (if_pos hbelow)
  · rw [exec_rxTickgen, htick]
    exact congrArg Host.Outcome.next (if_pos hbelow)
  · exact (tickRemainder_fits hrange).trans (if_neg (Nat.not_lt.mpr hfull))
  · rw [exec_rxTickgen, htick]
    exact congrArg Host.Outcome.next (if_neg (Nat.not_lt.mpr hfull))

/-! ### The edge detector (43 R192) -/

/-- `EHI` after the sample `x`, as an integer. -/
def trackedHigh (d : Demodulator) (x : Sample) : Int :=
  max x.toInt (d.ehi.toInt - envLeak d.ehi.toInt d.elo.toInt)

/-- `ELO` after the sample `x`, as an integer. -/
def trackedLow (d : Demodulator) (x : Sample) : Int :=
  min x.toInt (d.elo.toInt + envLeak d.ehi.toInt d.elo.toInt)

/-- What a sample above lifts a low level, the midpoint plus the hysteresis. -/
def riseThreshold (d : Demodulator) (x : Sample) : Int :=
  (trackedHigh d x + trackedLow d x) / 2 + (trackedHigh d x - trackedLow d x) / 4

/-- What a sample below drops a high level, the midpoint less the hysteresis. -/
def fallThreshold (d : Demodulator) (x : Sample) : Int :=
  (trackedHigh d x + trackedLow d x) / 2 - (trackedHigh d x - trackedLow d x) / 4

/-- The leak of an ordered envelope: none when it is closed, and at least 1 when it is open. -/
theorem envLeak_of_ordered {hi lo : Int} (h : lo ≤ hi) :
    envLeak hi lo = if hi - lo = 0 then 0 else max 1 ((hi - lo) / 256) := by
  unfold envLeak
  dsimp only
  split_ifs <;> omega

theorem trackedLow_le (d : Demodulator) (x : Sample) : trackedLow d x ≤ x.toInt := min_le_left _ _

theorem le_trackedHigh (d : Demodulator) (x : Sample) : x.toInt ≤ trackedHigh d x := le_max_left _ _

/-- The trackers of an ordered envelope stay inside the range of a sample: the registers lose no width. -/
theorem edgeDetect_tracked {d : Demodulator} (x : Sample) (h : d.elo.toInt ≤ d.ehi.toInt) :
    (edgeDetect d x).2.ehi.toInt = trackedHigh d x ∧ (edgeDetect d x).2.elo.toInt = trackedLow d x := by
  obtain ⟨hhi, hlo⟩ := edgeDetect_trackers d x
  obtain ⟨hleak, hopen⟩ := envLeak_bounds h
  have range (v : Sample) : -32768 ≤ v.toInt ∧ v.toInt < 32768 := ⟨BitVec.le_toInt v, BitVec.toInt_lt⟩
  have hx := range x
  have hd := range d.ehi
  have hd' := range d.elo
  rw [hhi, hlo]
  unfold trackedHigh trackedLow
  exact ⟨BitVec.toInt_ofInt_eq_self (by decide) (by omega) (by omega),
    BitVec.toInt_ofInt_eq_self (by decide) (by omega) (by omega)⟩

/-- The level after a sample, by the two thresholds. -/
theorem edgeDetect_level (d : Demodulator) (x : Sample) :
    (edgeDetect d x).2.dlvl =
      if d.dlvl = false ∧ riseThreshold d x < x.toInt then true
      else if d.dlvl = true ∧ x.toInt < fallThreshold d x then false
      else d.dlvl := by
  unfold edgeDetect riseThreshold fallThreshold trackedHigh trackedLow
  dsimp only
  split_ifs <;> rfl

theorem edgeDetect_of_low {d : Demodulator} (x : Sample) (h : d.dlvl = false) :
    (edgeDetect d x).2.dlvl = decide (riseThreshold d x < x.toInt) := by
  simp [edgeDetect_level, h]

theorem edgeDetect_of_high {d : Demodulator} (x : Sample) (h : d.dlvl = true) :
    (edgeDetect d x).2.dlvl = decide (¬x.toInt < fallThreshold d x) := by
  by_cases hfall : x.toInt < fallThreshold d x <;> simp [edgeDetect_level, h, hfall]

/-- Settles O45, by `edgeDetect_tracked` for the envelope and one lemma for each level. -/
theorem edgeDetectorFollowsTheEnvelope : Obligations.EdgeDetectorFollowsTheEnvelope := by
  unfold Obligations.EdgeDetectorFollowsTheEnvelope
  rintro s x w leak hi lo mid hys hord rfl hleak rfl rfl rfl rfl
  rw [← envLeak_of_ordered hord] at hleak
  subst hleak
  obtain ⟨hhi, hlo⟩ := edgeDetect_tracked x hord
  obtain ⟨-, htmr, htmrv, hhalf⟩ := edgeDetect_spec s.dem x
  exact ⟨(edgeDetect s.dem x).2, exec_demodEdge x s, hhi, hlo, trackedLow_le s.dem x, le_trackedHigh s.dem x,
    edgeDetect_of_low x, edgeDetect_of_high x, htmr, htmrv, hhalf⟩

/-! ### The levels at which an edge is found (43 R199) -/

/-- A sample at the top of the envelope lifts a low level exactly when the envelope is open. -/
theorem rises_at_top_iff {d : Demodulator} {x : Sample} (h : d.dlvl = false) (htop : trackedHigh d x = x.toInt) :
    (edgeDetect d x).2.dlvl = true ↔ trackedLow d x < x.toInt := by
  have hlow := trackedLow_le d x
  rw [edgeDetect_of_low x h, decide_eq_true_eq, riseThreshold, htop]
  omega

/-- A sample at the bottom of the envelope drops a high level exactly when the envelope is at least 2 wide: the
midpoint is rounded down. -/
theorem falls_at_bottom_iff {d : Demodulator} {x : Sample} (h : d.dlvl = true) (hbottom : trackedLow d x = x.toInt) :
    (edgeDetect d x).2.dlvl = false ↔ x.toInt + 2 ≤ trackedHigh d x := by
  rw [edgeDetect_of_high x h, decide_eq_false_iff_not, not_not, fallThreshold, hbottom]
  omega

/-- A sample at the top of the envelope leaves a high level high. -/
theorem stays_high_at_top {d : Demodulator} {x : Sample} (h : d.dlvl = true) (htop : trackedHigh d x = x.toInt) :
    (edgeDetect d x).2.dlvl = true := by
  have hlow := trackedLow_le d x
  rw [edgeDetect_of_high x h, decide_eq_true_eq, fallThreshold, htop]
  omega

/-- A sample at the bottom of the envelope leaves a low level low. -/
theorem stays_low_at_bottom {d : Demodulator} {x : Sample} (h : d.dlvl = false)
    (hbottom : trackedLow d x = x.toInt) : (edgeDetect d x).2.dlvl = false := by
  have hhigh := le_trackedHigh d x
  rw [edgeDetect_of_low x h, decide_eq_false_iff_not, riseThreshold, hbottom]
  omega

/-- A sample at or above an ordered envelope is its new top. -/
theorem trackedHigh_of_above {d : Demodulator} {x : Sample} (hord : d.elo.toInt ≤ d.ehi.toInt)
    (h : d.ehi.toInt ≤ x.toInt) : trackedHigh d x = x.toInt := by
  obtain ⟨hleak, -⟩ := envLeak_bounds hord
  exact max_eq_left (by omega)

/-- A sample at or below an ordered envelope is its new bottom. -/
theorem trackedLow_of_below {d : Demodulator} {x : Sample} (hord : d.elo.toInt ≤ d.ehi.toInt)
    (h : x.toInt ≤ d.elo.toInt) : trackedLow d x = x.toInt := by
  obtain ⟨hleak, -⟩ := envLeak_bounds hord
  exact min_eq_left (by omega)

/-- The leak, 1 or a 256th of the width, does not lift the low tracker to a sample 2 above it. -/
theorem trackedLow_lt_of_rise {d : Demodulator} {x : Sample} (hord : d.elo.toInt ≤ d.ehi.toInt)
    (htop : d.ehi.toInt ≤ x.toInt) (hrise : d.elo.toInt + 2 ≤ x.toInt) : trackedLow d x < x.toInt := by
  rw [trackedLow, envLeak_of_ordered hord]
  split <;> omega

/-- Nor does it bring the high tracker closer than 2 to a sample 3 below it. -/
theorem le_trackedHigh_of_fall {d : Demodulator} {x : Sample} (hord : d.elo.toInt ≤ d.ehi.toInt)
    (hbottom : x.toInt ≤ d.elo.toInt) (hfall : x.toInt + 3 ≤ d.ehi.toInt) : x.toInt + 2 ≤ trackedHigh d x := by
  rw [trackedHigh, envLeak_of_ordered hord]
  split <;> omega

/-- Of a high tracker exactly 2 above the sample, any leak leaves less than 2: only a closed envelope has none. -/
theorem le_trackedHigh_iff_closed {d : Demodulator} {x : Sample} (hord : d.elo.toInt ≤ d.ehi.toInt)
    (hfall : x.toInt + 2 = d.ehi.toInt) : x.toInt + 2 ≤ trackedHigh d x ↔ d.elo.toInt = d.ehi.toInt := by
  rw [trackedHigh, envLeak_of_ordered hord]
  split <;> omega

/-- A closed envelope has no leak, so its high tracker keeps any distance from the sample. -/
theorem le_trackedHigh_of_closed {d : Demodulator} {x : Sample} (hclosed : d.elo.toInt = d.ehi.toInt)
    (hfall : x.toInt + 2 ≤ d.ehi.toInt) : x.toInt + 2 ≤ trackedHigh d x := by
  rw [trackedHigh, envLeak_of_ordered hclosed.le]
  split <;> omega

/-- Settles O46: every clause has its sample at one end of the new envelope, where the width alone decides. -/
theorem levelChangesAreEdges : Obligations.LevelChangesAreEdges := by
  unfold Obligations.LevelChangesAreEdges
  intro s t x low high hord hexec
  rw [exec_demodEdge, demodEdge_eq] at hexec
  cases hexec
  obtain ⟨hhi, hlo⟩ := edgeDetect_tracked x hord
  dsimp only
  rw [hhi, hlo]
  refine ⟨?rise, ?fall, ?fallClosed, ?fallOfTwo, ?staysHigh, ?staysLow⟩
  case rise =>
    rintro hlevel htop hbottom hwide rfl
    have hend := trackedHigh_of_above hord htop
    have hopen := trackedLow_lt_of_rise hord htop (by omega)
    exact ⟨(rises_at_top_iff hlevel hend).mpr hopen, hend, hopen.le⟩
  case fall =>
    rintro hlevel hbottom htop hwide rfl
    have hend := trackedLow_of_below hord hbottom
    exact ⟨(falls_at_bottom_iff hlevel hend).mpr (le_trackedHigh_of_fall hord hbottom (by omega)), hend⟩
  case fallClosed =>
    rintro hlevel hbottom htop hwide rfl
    have hend := trackedLow_of_below (x := x) hord (by omega)
    exact ⟨(falls_at_bottom_iff hlevel hend).mpr (le_trackedHigh_of_closed (by omega) (by omega)), hend⟩
  case fallOfTwo =>
    rintro hlevel hbottom rfl hwide rfl
    have hend := trackedLow_of_below hord hbottom
    exact ⟨(falls_at_bottom_iff hlevel hend).trans (le_trackedHigh_iff_closed hord hwide), hend⟩
  case staysHigh => exact fun hlevel htop => stays_high_at_top hlevel (trackedHigh_of_above hord htop)
  case staysLow => exact fun hlevel hbottom => stays_low_at_bottom hlevel (trackedLow_of_below hord hbottom)

/-! ### The classifier (43 R194, R195) -/

theorem demodCls_second_half {d : Reg32} {s : State} (hshort : s.shortInterval d.toNat = true)
    (hhalf : s.dem.half = true) :
    demodCls d s = fbdShift true { s with dem := { s.dem with half := false } } := by
  simpa [hshort, hhalf] using demodCls_cases d s

theorem demodCls_first_half {d : Reg32} {s : State} (hshort : s.shortInterval d.toNat = true)
    (hhalf : s.dem.half = false) : demodCls d s = { s with dem := { s.dem with half := true } } := by
  simpa [hshort, hhalf] using demodCls_cases d s

theorem demodCls_whole_cell {d : Reg32} {s : State} (hshort : s.shortInterval d.toNat = false)
    (hlong : s.longInterval d.toNat = true) :
    demodCls d s = fbdShift false { s with dem := { s.dem with half := false } } := by
  simpa [hshort, hlong] using demodCls_cases d s

theorem demodCls_no_cell {d : Reg32} {s : State} (hshort : s.shortInterval d.toNat = false)
    (hlong : s.longInterval d.toNat = false) : demodCls d s = { s with dem := { s.dem with half := false } } := by
  simpa [hshort, hlong] using demodCls_cases d s

/-- Settles O47, by the four outcomes of the classifier; the short window ends at `5 · h`, the long one
begins at `7 · h`. -/
theorem intervalsAreClassified : Obligations.IntervalsAreClassified := by
  unfold Obligations.IntervalsAreClassified
  rintro s d h q rfl rfl
  have hq : 640 * rateNum s.rate * d.toNat = 8 * (s.rateB * d.toNat) := by unfold State.rateB; ring
  rw [hq]
  have hshort := shortInterval_iff s d.toNat
  have hlong := longInterval_iff s d.toNat
  refine ⟨fun hs hhalf => ⟨_, exec_fbdShift _ _, ?_⟩, fun hs hhalf => ?_, fun hs hl => ⟨_, exec_fbdShift _ _, ?_⟩,
    fun hs hl => ?_, fun hpos => by omega⟩
  · rw [exec_demodCls, demodCls_second_half (hshort.mpr hs) hhalf]
  · rw [exec_demodCls, demodCls_first_half (hshort.mpr hs) hhalf]
  · rw [exec_demodCls, demodCls_whole_cell (Bool.eq_false_iff.mpr (hs ∘ hshort.mp)) (hlong.mpr hl)]
  · rw [exec_demodCls, demodCls_no_cell (Bool.eq_false_iff.mpr (hs ∘ hshort.mp))
      (Bool.eq_false_iff.mpr (hl ∘ hlong.mp))]

/-! ### The frame boundary (43 R197) -/

/-- The next bit is the 80th exactly when 79 have been counted. -/
theorem lastBit_iff (n : BitVec 7) : n + 1#7 = 80#7 ↔ n = 79#7 := by bv_omega

theorem fbdShift_of_last {b : Bool} {s : State} (h : s.fbd.rxcnt = 79#7) :
    fbdShift b s =
      { rxDec { s with fbd := ⟨shiftIn b s.fbd.rxsr, 80#7⟩ } with fbd := ⟨shiftIn b s.fbd.rxsr, 0⟩ } := by
  simpa [lastBit_iff, h] using fbdShift_cases b s

theorem fbdShift_of_sync {b : Bool} {s : State} (hcnt : s.fbd.rxcnt ≠ 79#7)
    (hsync : syncok (shiftIn b s.fbd.rxsr) = true) :
    fbdShift b s = { s with fbd := ⟨shiftIn b s.fbd.rxsr, 0⟩ } := by
  simpa [lastBit_iff, hcnt, hsync] using fbdShift_cases b s

theorem fbdShift_of_inside {b : Bool} {s : State} (hcnt : s.fbd.rxcnt ≠ 79#7)
    (hsync : syncok (shiftIn b s.fbd.rxsr) = false) :
    fbdShift b s = { s with fbd := ⟨shiftIn b s.fbd.rxsr, s.fbd.rxcnt + 1⟩ } := by
  simpa [lastBit_iff, hcnt, hsync] using fbdShift_cases b s

/-- Settles O49, by the three outcomes of `FBD.SHIFT`; `RX.DEC` leaves the register alone. -/
theorem shiftFindsTheFrameBoundary : Obligations.ShiftFindsTheFrameBoundary := by
  unfold Obligations.ShiftFindsTheFrameBoundary
  intro s b _
  have hsync := syncok_iff (shiftIn b s.fbd.rxsr)
  refine ⟨shiftIn b s.fbd.rxsr, shiftIn_low b _, shiftIn_top b _, fun hlast => ⟨_, exec_rxDec _, ?_, ?_⟩,
    fun hcnt hword => ?_, fun hcnt hno => ?_⟩
  · exact (rxDec_frame _).2
  · rw [exec_fbdShift, fbdShift_of_last hlast]
    rfl
  · rw [exec_fbdShift, fbdShift_of_sync hcnt (hsync.mpr hword)]
    rfl
  · rw [exec_fbdShift, fbdShift_of_inside hcnt (Bool.eq_false_iff.mpr (hno ∘ hsync.mp))]

/-! ### The candidate (43 R198) -/

/-- Settles O50, by `rxDec_of_ok` and `rxDec_of_error`; neither outcome touches the register. -/
theorem candidateGoesToTheSyncEngine : Obligations.CandidateGoesToTheSyncEngine := by
  unfold Obligations.CandidateGoesToTheSyncEngine
  intro s
  have hkept : (rxDec s).fbd = s.fbd := (rxDec_frame s).2
  refine ⟨fun f hdec => ⟨rxDec s, ?_, exec_rxDec s, hkept⟩, fun e hdec => ⟨rxDec s, ?_, exec_rxDec s, hkept⟩⟩
  · rw [exec_seFrame, rxDec_of_ok hdec]
  · rw [exec_seFerr, rxDec_of_error hdec]

/-! ### The sample (43 R190) -/

/-- The interval timer after one more sample: it saturates. -/
def timerNext (n : Reg32) : Reg32 := BitVec.ofNat 32 (sat32 (n.toNat + 1))

theorem timerNext_toNat (n : Reg32) : (timerNext n).toNat = min (n.toNat + 1) 0xFFFFFFFF := by
  rw [timerNext, BitVec.toNat_ofNat, sat32]
  exact Nat.mod_eq_of_lt (by omega)

/-- Neither the tick nor the edge detector touches the timer. -/
theorem demodEdge_rxTickgen_timer {x : Sample} {s u v : State} (hu : rxTickgen s = u) (hv : demodEdge x u = v) :
    v.dem.tmr = s.dem.tmr ∧ v.dem.tmrv = s.dem.tmrv := by
  obtain ⟨_, _, _, _, htick⟩ := rxTickgen_eq s
  obtain ⟨-, htmr, htmrv, -⟩ := edgeDetect_spec u.dem x
  rw [← hv, demodEdge_eq, htmr, htmrv, ← hu, htick]
  exact ⟨rfl, rfl⟩

/-- The first edge only starts the timer. -/
theorem onEdge_of_first {s : State} (h : s.dem.tmrv = false) :
    onEdge s = { s with dem := { s.dem with tmr := 0, tmrv := true } } := by
  unfold onEdge
  dsimp only
  rw [if_neg (by simp [h])]
  rfl

/-- Every later edge ends an interval, which is classified with the timer restarted. -/
theorem onEdge_of_later {s : State} (h : s.dem.tmrv = true) :
    onEdge s =
      { demodCls s.dem.tmr { s with dem := { s.dem with tmr := 0 } } with
        dem := { (demodCls s.dem.tmr { s with dem := { s.dem with tmr := 0 } }).dem with tmrv := true } } := by
  unfold onEdge
  dsimp only
  exact congrArg (fun t : State => t.putDem { t.dem with tmrv := true }) (if_pos h)

/-- The interval timer goes on by one sample. -/
def advanceTimer (s : State) : State := { s with dem := { s.dem with tmr := timerNext s.dem.tmr } }

/-- A received sample: the tick, the edge detector, the timer, and what an edge ends. -/
theorem smpIn_of_receiving {x : Sample} {s u v : State} (hon : s.run.runRecv = true) (hu : rxTickgen s = u)
    (hv : demodEdge x u = v) :
    smpIn x s = if v.dem.dlvl ≠ u.dem.dlvl then onEdge (advanceTimer v) else advanceTimer v := by
  subst hu hv
  obtain ⟨hedge, -⟩ := edgeDetect_spec (rxTickgen s).dem x
  unfold smpIn
  rw [if_neg (by rw [hon]; exact Bool.noConfusion)]
  exact if_congr hedge rfl rfl

/-- Settles O43: `smpIn_of_receiving` gives the order, and an edge is the first or a later one. -/
theorem sampleInputFollowsItsOrder : Obligations.SampleInputFollowsItsOrder := by
  unfold Obligations.SampleInputFollowsItsOrder
  refine ⟨fun s x hoff => congrArg Host.Outcome.next (if_pos hoff), fun s x hon => ?_⟩
  obtain ⟨u, hu⟩ : ∃ u, rxTickgen s = u := ⟨_, rfl⟩
  obtain ⟨v, hv⟩ : ∃ v, demodEdge x u = v := ⟨_, rfl⟩
  obtain ⟨htmr, htmrv⟩ := demodEdge_rxTickgen_timer hu hv
  have hsample := smpIn_of_receiving hon hu hv
  refine ⟨u, v, congrArg Host.Outcome.next hu, congrArg Host.Outcome.next hv, htmr, timerNext v.dem.tmr,
    htmr ▸ timerNext_toNat v.dem.tmr, fun hstay => ?_, fun hedge hfirst => ?_,
    fun hedge hlater => ⟨_, exec_demodCls _ _, ?_⟩⟩
  · rw [exec_smpIn, hsample, if_neg (not_not_intro hstay)]
    rfl
  · rw [exec_smpIn, hsample, if_pos hedge, onEdge_of_first (s := advanceTimer v) (htmrv.trans hfirst)]
    rfl
  · rw [exec_smpIn, hsample, if_pos hedge, onEdge_of_later (s := advanceTimer v) (htmrv.trans hlater)]
    rfl

end Sys2Proof.Proofs

namespace Sys2Proof.Proofs

open Sys2Proof.Machine

/-! The timebase (spec/44_timebase.md): labels and counts, positions, and the five commands on them.

A label has a place in the plain sequence of times of day, dropped labels included. Its digits give that place and are
given by it; the drop-frame rule is a renumbering of places. Each is inverted on its own. -/

/-! ### The place of a label in the plain sequence (44 R231) -/

/-- The number of labels before `l`, dropped ones included. -/
def labelPlace (r : Rate) (l : Label) : Nat := ((l.hh * 60 + l.mm) * 60 + l.ss) * rateFn r + l.ff

/-- The label at a place. -/
def placeLabel (r : Rate) (p : Nat) : Label where
  ff := p % rateFn r
  ss := p / rateFn r % 60
  mm := p / (60 * rateFn r) % 60
  hh := p / (3600 * rateFn r) % 24

/-- The four digits of a label in range, as they are read off its place. -/
theorem placeLabel_labelPlace {r : Rate} {l : Label} (h : inrange l (rateFn r) = true) :
    placeLabel r (labelPlace r l) = l := by
  obtain ⟨hh, mm, ss, ff⟩ := l
  obtain ⟨hhh, hmm, hss, hff⟩ : hh ≤ 23 ∧ mm ≤ 59 ∧ ss ≤ 59 ∧ ff < rateFn r := (inrange_iff _ _).mp h
  rw [placeLabel, labelPlace, Label.mk.injEq]
  cases r <;> simp only [rateFn] at hff ⊢ <;> omega

/-- The digits read off a place are in range, whatever the place. -/
theorem inrange_placeLabel (r : Rate) (p : Nat) : inrange (placeLabel r p) (rateFn r) = true := by
  have hff := Nat.mod_lt p (rateFn_pos r)
  rw [inrange_iff]
  exact ⟨Nat.lt_succ_iff.mp (Nat.mod_lt _ (by decide)), Nat.lt_succ_iff.mp (Nat.mod_lt _ (by decide)),
    Nat.lt_succ_iff.mp (Nat.mod_lt _ (by decide)), hff⟩

/-- The place of the label at a place of the day. -/
theorem labelPlace_placeLabel {r : Rate} {p : Nat} (h : p < 86400 * rateFn r) :
    labelPlace r (placeLabel r p) = p := by
  rw [placeLabel, labelPlace]
  cases r <;> simp only [rateFn] at h ⊢ <;> omega

theorem labelPlace_lt {r : Rate} {l : Label} (h : inrange l (rateFn r) = true) :
    labelPlace r l < 86400 * rateFn r := by
  obtain ⟨hhh, hmm, hss, hff⟩ := (inrange_iff _ _).mp h
  rw [labelPlace]
  cases r <;> simp only [rateFn] at hff ⊢ <;> omega

/-- The place follows the order of the times of day. -/
theorem labelPlace_lt_of_before {r : Rate} {l l' : Label} (h : inrange l (rateFn r) = true)
    (h' : inrange l' (rateFn r) = true) (hlt : l.before l') : labelPlace r l < labelPlace r l' := by
  obtain ⟨-, hmm, hss, hff⟩ := (inrange_iff _ _).mp h
  rw [labelPlace, labelPlace]
  cases r <;> simp only [rateFn] at hff ⊢ <;> omega

/-! ### The drop-frame renumbering (44 R232 to R235)

At 29.97 a minute has 1800 places and ten minutes have 18 000; all minutes of ten but the first lose their first two. -/

/-- A place of a dropped label at 29.97. -/
abbrev DroppedPlace (p : Nat) : Prop := p % 1800 < 2 ∧ 1800 ≤ p % 18000

/-- The places up to `p` without two for each minute begun that is not a multiple of ten. -/
def dropPlaces (p : Nat) : Nat := p - 2 * (p / 1800 - p / 18000)

/-- Putting the dropped places back finds every place that is not dropped. -/
theorem undropCount_dropPlaces {p : Nat} (h : ¬DroppedPlace p) : undropCount (dropPlaces p) = p := by
  unfold DroppedPlace at h
  unfold undropCount dropPlaces
  dsimp only
  split <;> omega

/-- Every count is that of the place it is put back to. -/
theorem dropPlaces_undropCount (c : Nat) : dropPlaces (undropCount c) = c := by
  unfold undropCount dropPlaces
  dsimp only
  split <;> omega

/-- No count is put back to a dropped place. -/
theorem not_droppedPlace_undropCount (c : Nat) : ¬DroppedPlace (undropCount c) := by
  unfold undropCount DroppedPlace
  dsimp only
  split <;> omega

/-- The renumbering keeps the order up to a place that is not dropped. -/
theorem dropPlaces_lt {p q : Nat} (hlt : p < q) (hkept : ¬DroppedPlace q) : dropPlaces p < dropPlaces q := by
  unfold DroppedPlace at hkept
  unfold dropPlaces
  omega

/-- A day of counts is a day of places. -/
theorem undropCount_lt {r : Rate} {c : Nat} (hdf : rateDf r = true) (h : c < rateDay r) :
    undropCount c < 86400 * rateFn r := by
  cases r <;> cases hdf
  simp only [rateDay, rateFn] at h ⊢
  unfold undropCount
  dsimp only
  split <;> omega

/-! ### Labels and counts (44 R234, R235) -/

/-- `lbl2cnt` renumbers the place at 29.97. -/
theorem labelCount_eq_of_df {r : Rate} {l : Label} (hdf : rateDf r = true) (h : inrange l (rateFn r) = true) :
    labelCount r l = dropPlaces (labelPlace r l) := by
  obtain ⟨-, hmm, hss, hff⟩ := (inrange_iff _ _).mp h
  cases r <;> cases hdf
  simp only [labelCount, rateDf, if_true, dropPlaces, labelPlace, rateFn] at hff ⊢
  omega

/-- At the other rates the count is the place. -/
theorem labelCount_eq_of_not_df {r : Rate} (hdf : rateDf r = false) (l : Label) :
    labelCount r l = labelPlace r l := by
  simp only [labelCount, hdf, Bool.false_eq_true, if_false, labelPlace]

/-- `cnt2lbl` is the label at a place, at 29.97 the place found by putting the dropped labels back. -/
theorem countLabel_eq (r : Rate) (c : Nat) :
    countLabel r c = placeLabel r (if rateDf r then undropCount c else c) := rfl

theorem droppedLabel_iff {r : Rate} {l : Label} (h : inrange l (rateFn r) = true) :
    DroppedLabel r l ↔ rateDf r = true ∧ DroppedPlace (labelPlace r l) := by
  obtain ⟨-, hmm, hss, hff⟩ := (inrange_iff _ _).mp h
  cases r <;> simp only [DroppedLabel, rateDf, Bool.false_eq_true, false_and, true_and, rateFn, DroppedPlace,
    labelPlace] at hff ⊢
  omega

/-- A valid label is a label in range that is not dropped. -/
theorem validLabel_iff (r : Rate) (l : Label) :
    ValidLabel r l ↔ inrange l (rateFn r) = true ∧ ¬(rateDf r = true ∧ DroppedPlace (labelPlace r l)) := by
  constructor
  · rintro ⟨hhh, hmm, hss, hff, hkept⟩
    have hin := (inrange_iff _ _).mpr ⟨hhh, hmm, hss, hff⟩
    exact ⟨hin, (droppedLabel_iff hin).not.mp hkept⟩
  · rintro ⟨hin, hkept⟩
    obtain ⟨hhh, hmm, hss, hff⟩ := (inrange_iff _ _).mp hin
    exact ⟨hhh, hmm, hss, hff, (droppedLabel_iff hin).not.mpr hkept⟩

theorem inrange_of_validLabel {r : Rate} {l : Label} (h : ValidLabel r l) : inrange l (rateFn r) = true :=
  ((validLabel_iff r l).mp h).1

/-- At a rate without drop-frame a day of counts is a day of places. -/
theorem rateDay_eq_of_not_df {r : Rate} (hdf : rateDf r = false) : rateDay r = 86400 * rateFn r := by
  cases r with
  | fps2997 => cases hdf
  | _ => rfl

/-- A count gives its label, which is valid and has that count. -/
theorem countLabel_spec {r : Rate} {c : Nat} (h : c < rateDay r) :
    ValidLabel r (countLabel r c) ∧ labelCount r (countLabel r c) = c := by
  have hin := inrange_placeLabel r (if rateDf r then undropCount c else c)
  rw [validLabel_iff, countLabel_eq]
  cases hdf : rateDf r with
  | false =>
    rw [hdf] at hin
    have hplace : c < 86400 * rateFn r := rateDay_eq_of_not_df hdf ▸ h
    exact ⟨⟨hin, fun hdrop => Bool.false_ne_true hdrop.1⟩,
      (labelCount_eq_of_not_df hdf _).trans (labelPlace_placeLabel hplace)⟩
  | true =>
    rw [hdf] at hin
    have hplace : labelPlace r (placeLabel r (undropCount c)) = undropCount c :=
      labelPlace_placeLabel (undropCount_lt hdf h)
    refine ⟨⟨hin, fun hdrop => not_droppedPlace_undropCount c (hplace ▸ hdrop.2)⟩, ?_⟩
    exact (labelCount_eq_of_df hdf hin).trans ((congrArg _ hplace).trans (dropPlaces_undropCount c))

/-- A valid label is the label of its count. -/
theorem countLabel_labelCount {r : Rate} {l : Label} (h : ValidLabel r l) : countLabel r (labelCount r l) = l := by
  obtain ⟨hin, hkept⟩ := (validLabel_iff r l).mp h
  rw [countLabel_eq]
  cases hdf : rateDf r with
  | false => exact (congrArg _ (labelCount_eq_of_not_df hdf l)).trans (placeLabel_labelPlace hin)
  | true =>
    have hplace : ¬DroppedPlace (labelPlace r l) := fun hdrop => hkept ⟨hdf, hdrop⟩
    rw [if_pos rfl, labelCount_eq_of_df hdf hin, undropCount_dropPlaces hplace, placeLabel_labelPlace hin]

/-- The count keeps the order of the valid labels. -/
theorem labelCount_lt_of_before {r : Rate} {l l' : Label} (h : ValidLabel r l) (h' : ValidLabel r l')
    (hlt : l.before l') : labelCount r l < labelCount r l' := by
  obtain ⟨hin, -⟩ := (validLabel_iff r l).mp h
  obtain ⟨hin', hkept⟩ := (validLabel_iff r l').mp h'
  have hplace := labelPlace_lt_of_before hin hin' hlt
  cases hdf : rateDf r with
  | false => rwa [labelCount_eq_of_not_df hdf, labelCount_eq_of_not_df hdf]
  | true =>
    rw [labelCount_eq_of_df hdf hin, labelCount_eq_of_df hdf hin']
    exact dropPlaces_lt hplace fun hdrop => hkept ⟨hdf, hdrop⟩

/-- Settles O22: `cnt2lbl` and `lbl2cnt` invert each other, and the renumbering of places keeps their order. -/
theorem countIsThePositionAmongValidLabels : Obligations.CountIsThePositionAmongValidLabels := by
  unfold Obligations.CountIsThePositionAmongValidLabels
  exact fun r => ⟨fun l hl => ⟨labelCount_lt (inrange_of_validLabel hl), countLabel_labelCount hl⟩,
    fun c hc => countLabel_spec hc, fun l l' hl hl' => labelCount_lt_of_before hl hl'⟩

/-! ### The successor (44 R237) -/

/-- A dropped place is passed over with the one after it. -/
def skipDropped (r : Rate) (p : Nat) : Nat := if rateDf r = true ∧ DroppedPlace p then p + 2 else p

theorem skipDropped_of_not_df {r : Rate} (hdf : rateDf r = false) (p : Nat) : skipDropped r p = p :=
  if_neg fun hskip => Bool.false_ne_true (hdf.symm.trans hskip.1)

theorem eq_skipDropped_iff (r : Rate) (p q : Nat) :
    q = skipDropped r p ↔
      (rateDf r = true ∧ DroppedPlace p) ∧ q = p + 2 ∨ ¬(rateDf r = true ∧ DroppedPlace p) ∧ q = p := by
  unfold skipDropped
  by_cases hskip : rateDf r = true ∧ DroppedPlace p
  · rw [if_pos hskip, and_iff_right hskip, or_iff_left fun hno => hno.1 hskip]
  · rw [if_neg hskip, and_iff_right hskip, or_iff_right fun hyes => hskip hyes.1]

/-- The ways the counter rule carries: not at all, into the seconds, into the minutes with a dropped pair and without
one, into the hours. -/
theorem counterNext_cases (r : Rate) (l : Label) :
    (l.ff + 1 ≠ rateFn r ∧ counterNext r l = { l with ff := l.ff + 1 }) ∨
    (l.ff + 1 = rateFn r ∧ l.ss + 1 ≠ 60 ∧ counterNext r l = { l with ff := 0, ss := l.ss + 1 }) ∨
    (l.ff + 1 = rateFn r ∧ l.ss + 1 = 60 ∧ l.mm + 1 ≠ 60 ∧ (rateDf r = true ∧ (l.mm + 1) % 10 ≠ 0) ∧
      counterNext r l = ⟨l.hh, l.mm + 1, 0, 2⟩) ∨
    (l.ff + 1 = rateFn r ∧ l.ss + 1 = 60 ∧ l.mm + 1 ≠ 60 ∧ ¬(rateDf r = true ∧ (l.mm + 1) % 10 ≠ 0) ∧
      counterNext r l = ⟨l.hh, l.mm + 1, 0, 0⟩) ∨
    (l.ff + 1 = rateFn r ∧ l.ss + 1 = 60 ∧ l.mm + 1 = 60 ∧ counterNext r l = ⟨(l.hh + 1) % 24, 0, 0, 0⟩) := by
  by_cases hframe : l.ff + 1 = rateFn r
  · by_cases hsecond : l.ss + 1 = 60
    · by_cases hminute : l.mm + 1 = 60
      · exact .inr (.inr (.inr (.inr ⟨hframe, hsecond, hminute, by simp [counterNext, hframe, hsecond, hminute]⟩)))
      · have hcarry : counterNext r l =
            ⟨l.hh, l.mm + 1, 0, if rateDf r = true ∧ (l.mm + 1) % 10 ≠ 0 then 2 else 0⟩ := by
          simp only [counterNext, hframe, hsecond, hminute, ne_eq, not_true_eq_false, if_false]
        by_cases hdrop : rateDf r = true ∧ (l.mm + 1) % 10 ≠ 0
        · exact .inr (.inr (.inl ⟨hframe, hsecond, hminute, hdrop, by rw [hcarry, if_pos hdrop]⟩))
        · exact .inr (.inr (.inr (.inl ⟨hframe, hsecond, hminute, hdrop, by rw [hcarry, if_neg hdrop]⟩)))
    · exact .inr (.inl ⟨hframe, hsecond, by simp [counterNext, hframe, hsecond]⟩)
  · exact .inl ⟨hframe, if_pos hframe⟩

/-- The counter rule goes to the next place of the day, over a dropped pair: without a carry into the minutes the next
place is not dropped, and with one the rule's own condition says whether it is. -/
theorem labelPlace_counterNext {r : Rate} {l : Label} (h : ValidLabel r l) :
    labelPlace r (counterNext r l) = skipDropped r ((labelPlace r l + 1) % (86400 * rateFn r)) := by
  obtain ⟨hhh, hmm, hss, hff, hkept⟩ := h
  rw [eq_skipDropped_iff]
  rcases counterNext_cases r l with ⟨hframe, h⟩ | ⟨hframe, hsecond, h⟩ | ⟨hframe, hsecond, hminute, hdrop, h⟩ |
    ⟨hframe, hsecond, hminute, hdrop, h⟩ | ⟨hframe, hsecond, hminute, h⟩ <;> rw [h] <;> unfold labelPlace
  all_goals
    cases r <;> simp only [DroppedLabel, rateFn, rateDf, Bool.false_eq_true, false_and, true_and, false_or,
      not_false_eq_true] at * <;> omega

/-- The counter rule keeps the ranges of the digits. -/
theorem inrange_counterNext {r : Rate} {l : Label} (h : inrange l (rateFn r) = true) :
    inrange (counterNext r l) (rateFn r) = true := by
  have hfn : 2 < rateFn r := by cases r <;> decide
  rw [inrange_iff] at h ⊢
  rcases counterNext_cases r l with ⟨hframe, h⟩ | ⟨hframe, hsecond, h⟩ | ⟨hframe, hsecond, hminute, -, h⟩ |
    ⟨hframe, hsecond, hminute, -, h⟩ | ⟨hframe, hsecond, hminute, h⟩ <;> rw [h]
  all_goals dsimp only; omega

/-- The place after the skip is not dropped, and its number among the others is the next. -/
theorem skipDropped_spec {p : Nat} (hkept : ¬DroppedPlace p) :
    ¬DroppedPlace (skipDropped .fps2997 (p + 1)) ∧
    dropPlaces (skipDropped .fps2997 (p + 1)) = dropPlaces p + 1 := by
  unfold DroppedPlace at hkept
  simp only [skipDropped, rateDf, true_and, dropPlaces, DroppedPlace]
  split_ifs <;> omega

/-- The same within the day: after the last place comes the first. -/
theorem skipDropped_mod_spec {p : Nat} (hday : p < 86400 * rateFn .fps2997) (hkept : ¬DroppedPlace p) :
    ¬DroppedPlace (skipDropped .fps2997 ((p + 1) % (86400 * rateFn .fps2997))) ∧
    dropPlaces (skipDropped .fps2997 ((p + 1) % (86400 * rateFn .fps2997))) = nextCount .fps2997 (dropPlaces p) := by
  rcases Nat.lt_or_ge (p + 1) (86400 * rateFn .fps2997) with hlt | hge
  · have hcount : dropPlaces p + 1 < rateDay .fps2997 :=
      Nat.succ_lt_succ (dropPlaces_lt (q := 2591999) (Nat.lt_sub_of_add_lt hlt) (by decide))
    rw [Nat.mod_eq_of_lt hlt, nextCount, Nat.mod_eq_of_lt hcount]
    exact skipDropped_spec hkept
  · obtain rfl : p = 2591999 := Nat.le_antisymm (Nat.lt_succ_iff.mp hday) (Nat.succ_le_succ_iff.mp hge)
    decide

/-- The counter rule goes from a valid label to the valid label of the next count, the last of the day to the first. -/
theorem counterNext_spec {r : Rate} {l : Label} (h : ValidLabel r l) :
    ValidLabel r (counterNext r l) ∧ labelCount r (counterNext r l) = nextCount r (labelCount r l) := by
  obtain ⟨hin, hkept⟩ := (validLabel_iff r l).mp h
  have hnext := inrange_counterNext hin
  have hplace := labelPlace_counterNext h
  have hday := labelPlace_lt hin
  rw [validLabel_iff]
  cases hdf : rateDf r with
  | false =>
    rw [labelCount_eq_of_not_df hdf, labelCount_eq_of_not_df hdf, hplace, nextCount, rateDay_eq_of_not_df hdf]
    exact ⟨⟨hnext, fun hdrop => Bool.false_ne_true hdrop.1⟩, skipDropped_of_not_df hdf _⟩
  | true =>
    rw [labelCount_eq_of_df hdf hin, labelCount_eq_of_df hdf hnext, hplace]
    cases r <;> cases hdf
    obtain ⟨hstays, hcount⟩ := skipDropped_mod_spec hday fun hdrop => hkept ⟨rfl, hdrop⟩
    exact ⟨⟨hnext, fun hdrop => hstays hdrop.2⟩, hcount⟩

/-- The label of the next count is the counter rule's. -/
theorem countLabel_nextCount {r : Rate} {l : Label} (h : ValidLabel r l) :
    countLabel r (nextCount r (labelCount r l)) = counterNext r l := by
  obtain ⟨hvalid, hcount⟩ := counterNext_spec h
  rw [← hcount, countLabel_labelCount hvalid]

/-- Settles O23: the counter rule gives a valid label of the next count, and a count has one valid label. -/
theorem successorIsTheCounterRule : Obligations.SuccessorIsTheCounterRule := by
  unfold Obligations.SuccessorIsTheCounterRule
  exact fun r l hl => ⟨countLabel_nextCount hl, (counterNext_spec hl).1⟩

/-! ### Dropped labels as input (44 R236) -/

/-- Settles O24: the formula takes two labels off at the start of the minute, before the dropped pair. -/
theorem droppedLabelsAlias : Obligations.DroppedLabelsAlias := by
  unfold Obligations.DroppedLabelsAlias
  rintro ⟨hh, mm, ss, ff⟩ hhh hmm ⟨-, hss, hff, hten⟩
  simp only [labelCount, rateFn, rateDf, if_true, ValidLabel, DroppedLabel] at *
  omega

/-! ### Labels in `FLD_TIME` (10 R21) -/

/-- A label in range fits the bytes of a time register. -/
theorem unpackTime_packTime_of_inrange {r : Rate} {l : Label} (h : inrange l (rateFn r) = true) :
    unpackTime (packTime l) = l := by
  obtain ⟨hhh, hmm, hss, hff⟩ := (inrange_iff _ _).mp h
  have hfn := rateFn_le r
  exact unpackTime_packTime l (by omega) (by omega) (by omega) (by omega)

/-- A time register is the packing of its four bytes. -/
theorem packTime_unpackTime (v : Reg32) : packTime (unpackTime v) = v := by
  simp only [packTime, unpackTime, BitVec.ofNat_toNat, BitVec.setWidth_eq]
  apply BitVec.eq_of_getLsbD_eq
  intro i hi
  simp only [BitVec.getLsbD_or, getLsbD_bitsAt_extractLsb', ← Bool.and_or_distrib_right, ← Bool.decide_or]
  rw [decide_eq_true (by omega), Bool.true_and]

/-- The label of a count, written to `FLD_TIME`: valid, with that count. -/
theorem packTime_countLabel_spec {r : Rate} {c : Nat} (h : c < rateDay r) :
    unpackTime (packTime (countLabel r c)) = countLabel r c ∧
    ValidLabel r (unpackTime (packTime (countLabel r c))) ∧
    labelCount r (unpackTime (packTime (countLabel r c))) = c := by
  obtain ⟨hvalid, hcount⟩ := countLabel_spec h
  have hfits := unpackTime_packTime_of_inrange (inrange_of_validLabel hvalid)
  rw [hfits]
  exact ⟨rfl, hvalid, hcount⟩

/-- A count below `DAY` fits a register. -/
theorem toNat_ofNat_count {r : Rate} {c : Nat} (h : c < rateDay r) : (BitVec.ofNat 32 c).toNat = c := by
  have hday := rateDay_lt r
  rw [BitVec.toNat_ofNat, Nat.mod_eq_of_lt (by omega)]

/-! ### `LBL2CNT` (44 R240) -/

theorem exec_lbl2cnt_of_inrange {s : State} (h : inrange (unpackTime s.ops.fldTime) (rateFn s.rate) = true) :
    exec .lbl2cnt s = .next { s with
      ops := { s.ops with cntop := BitVec.ofNat 32 (labelCount s.rate (unpackTime s.ops.fldTime)) }, result := 0 } :=
  congrArg Host.Outcome.next (if_pos h)

theorem exec_lbl2cnt_of_not_inrange {s : State} (h : ¬inrange (unpackTime s.ops.fldTime) (rateFn s.rate) = true) :
    exec .lbl2cnt s = .next { s with result := resultRange } :=
  congrArg Host.Outcome.next (if_neg h)

/-- The formula of 44 R234 with the subtraction on the other side: no more is taken off than there is. -/
theorem labelCount_add_dropped {r : Rate} {l : Label} :
    labelCount r l + (if r = .fps2997 then 2 * (60 * l.hh + l.mm - (60 * l.hh + l.mm) / 10) else 0) =
      ((l.hh * 60 + l.mm) * 60 + l.ss) * rateFn r + l.ff := by
  unfold labelCount
  cases r with
  | fps2997 =>
    simp only [rateFn, rateDf, if_true]
    omega
  | _ => rfl

/-- Settles O25: the count fits `CNTOP`, and `labelCount_add_dropped` is the formula. -/
theorem lbl2cntWritesTheCount : Obligations.Lbl2cntWritesTheCount := by
  unfold Obligations.Lbl2cntWritesTheCount
  rintro s _ _ _ _ rfl rfl rfl rfl
  have hrange := inrange_iff (unpackTime s.ops.fldTime) (rateFn s.rate)
  refine ⟨fun hin => ⟨_, exec_lbl2cnt_of_inrange (hrange.mpr hin), ?_⟩,
    fun hout => exec_lbl2cnt_of_not_inrange (hrange.not.mpr hout)⟩
  rw [toNat_ofNat_count (labelCount_lt (hrange.mpr hin))]
  exact labelCount_add_dropped

/-! ### `CNT2LBL` (44 R241) -/

theorem exec_cnt2lbl_of_lt {s : State} (h : s.ops.cntop.toNat < rateDay s.rate) :
    exec .cnt2lbl s = .next { s with
      ops := { s.ops with fldTime := packTime (countLabel s.rate s.ops.cntop.toNat) }, result := 0 } :=
  congrArg Host.Outcome.next (if_neg (Nat.not_le.mpr h))

theorem exec_cnt2lbl_of_le {s : State} (h : rateDay s.rate ≤ s.ops.cntop.toNat) :
    exec .cnt2lbl s = .next { s with result := resultRange } :=
  congrArg Host.Outcome.next (if_pos h)

/-- Settles O26, by the label of a count. -/
theorem cnt2lblWritesTheValidLabel : Obligations.Cnt2lblWritesTheValidLabel := by
  unfold Obligations.Cnt2lblWritesTheValidLabel
  exact fun s => ⟨fun hlt => ⟨_, exec_cnt2lbl_of_lt hlt, (packTime_countLabel_spec hlt).2⟩, exec_cnt2lbl_of_le⟩

/-! ### `INCLBL` (44 R242) -/

theorem exec_inclbl_of_inrange {s : State} (h : inrange (unpackTime s.ops.fldTime) (rateFn s.rate) = true) :
    exec .inclbl s = .next { s with
      ops := { s.ops with
        fldTime := packTime (countLabel s.rate (nextCount s.rate (labelCount s.rate (unpackTime s.ops.fldTime)))) }
      result := 0 } :=
  congrArg Host.Outcome.next (if_pos h)

theorem exec_inclbl_of_not_inrange {s : State} (h : ¬inrange (unpackTime s.ops.fldTime) (rateFn s.rate) = true) :
    exec .inclbl s = .next { s with result := resultRange } :=
  congrArg Host.Outcome.next (if_neg h)

/-- Settles O27: the label of the next count, which `countLabel_nextCount` finds for a valid label. -/
theorem inclblWritesTheSuccessor : Obligations.InclblWritesTheSuccessor := by
  unfold Obligations.InclblWritesTheSuccessor
  intro s
  refine ⟨fun hin => ⟨_, exec_inclbl_of_inrange hin, ?_⟩,
    fun hout => exec_inclbl_of_not_inrange (ne_true_of_eq_false hout)⟩
  have hday := nextCount_lt s.rate (labelCount s.rate (unpackTime s.ops.fldTime))
  obtain ⟨hfits, hvalid, hcount⟩ := packTime_countLabel_spec hday
  exact ⟨hvalid, hcount, fun hlabel => hfits.trans (countLabel_nextCount hlabel)⟩

/-! ### Positions (44 R238, R239) -/

/-- `ceildiv` is the least integer not below the quotient (00 R9). -/
theorem ceilDiv_le_iff {a b n : Nat} (hb : 0 < b) : ceilDiv a b ≤ n ↔ a ≤ n * b := by
  rw [ceilDiv, ← Nat.lt_succ_iff, Nat.div_lt_iff_lt_mul hb, Nat.succ_mul]
  omega

/-- The milliseconds of a count of frames: the first in the frame, rounded up (44 R239). -/
def frameMs (r : Rate) (w : Nat) : Nat := ceilDiv (w * 1000 * rateDen r) (rateNum r)

/-- The frames elapsed at a millisecond are at least `w` from `frameMs r w` on. -/
theorem frameMs_le_iff (r : Rate) (w ms : Nat) : frameMs r w ≤ ms ↔ w ≤ msToFrames r ms := by
  have hden : 0 < 1000 * rateDen r := Nat.mul_pos (by decide) (rateDen_pos r)
  rw [frameMs, ceilDiv_le_iff (rateNum_pos r), msToFrames, Nat.le_div_iff_mul_le hden, Nat.mul_assoc]

/-- A frame lasts more than a millisecond: rounding up never reaches the next one. -/
theorem msToFrames_succ_le (r : Rate) (ms : Nat) : msToFrames r (ms + 1) ≤ msToFrames r ms + 1 := by
  have hden : 0 < 1000 * rateDen r := Nat.mul_pos (by decide) (rateDen_pos r)
  have hshort : rateNum r ≤ 1000 * rateDen r := by cases r <;> decide
  rw [msToFrames, msToFrames, ← Nat.add_div_right _ hden, Nat.succ_mul]
  exact Nat.div_le_div_right (Nat.add_le_add_left hshort _)

/-- Exactly `w` frames have elapsed at `frameMs r w`. -/
theorem msToFrames_frameMs (r : Rate) (w : Nat) : msToFrames r (frameMs r w) = w := by
  refine Nat.le_antisymm ?_ ((frameMs_le_iff r w _).mp le_rfl)
  cases hms : frameMs r w with
  | zero => simp [msToFrames]
  | succ ms =>
    have hbefore : ¬w ≤ msToFrames r ms := by rw [← frameMs_le_iff]; omega
    have hstep := msToFrames_succ_le r ms
    omega

/-- The frames inside the playlist entry, or in the day (44 R239). -/
def entryFrames (r : Rate) (hidx : Bool) (c : Nat) : Nat := if hidx then c % rateHour r else c

theorem countPos_fst (r : Rate) (hidx : Bool) (c : Nat) :
    (countPos r hidx c).1 = if hidx then c / rateHour r else 0 := rfl

theorem countPos_snd (r : Rate) (hidx : Bool) (c : Nat) :
    (countPos r hidx c).2 = frameMs r (entryFrames r hidx c) := rfl

theorem posCount_eq (r : Rate) (hidx : Bool) (idx ms : Nat) :
    posCount r hidx idx ms =
      if hidx then idx % 24 * rateHour r + msToFrames r ms % rateHour r else msToFrames r ms % rateDay r := rfl

/-- Within the range of the entry, a position of the count's entry has the count exactly when the count's frames have
elapsed. -/
theorem posCount_eq_iff {r : Rate} {hidx : Bool} {c ms : Nat} (hc : c < rateDay r)
    (hms : msToFrames r ms ≤ entryFrames r hidx c) :
    posCount r hidx (countPos r hidx c).1 ms = c ↔ msToFrames r ms = entryFrames r hidx c := by
  rw [posCount_eq, countPos_fst]
  cases hidx with
  | false =>
    have hlt : msToFrames r ms < rateDay r := hms.trans_lt hc
    simp only [entryFrames, Bool.false_eq_true, if_false, Nat.mod_eq_of_lt hlt]
  | true =>
    have hlt : msToFrames r ms < rateHour r := hms.trans_lt (Nat.mod_lt _ (rateHour_pos r))
    have hhour : c / rateHour r < 24 := by
      rwa [Nat.div_lt_iff_lt_mul (rateHour_pos r), ← rateDay_eq]
    have hsplit := Nat.div_add_mod' c (rateHour r)
    simp only [entryFrames, if_true, Nat.mod_eq_of_lt hlt, Nat.mod_eq_of_lt hhour]
    omega

/-- `pos2cnt` gives the count of a position back (44 R239). -/
theorem posCount_countPos {r : Rate} {hidx : Bool} {c : Nat} (hc : c < rateDay r) :
    posCount r hidx (countPos r hidx c).1 (countPos r hidx c).2 = c := by
  have hms := msToFrames_frameMs r (entryFrames r hidx c)
  exact (posCount_eq_iff hc hms.le).mpr hms

theorem entryFrames_le (r : Rate) (hidx : Bool) (c : Nat) : entryFrames r hidx c ≤ c := by
  unfold entryFrames
  split
  · exact Nat.mod_le _ _
  · exact le_rfl

/-- A count is reached within 24 hours (44 R239). -/
theorem countPos_snd_le {r : Rate} {hidx : Bool} {c : Nat} (hc : c < rateDay r) :
    (countPos r hidx c).2 ≤ 86400000 := by
  have hday : rateDay r ≤ msToFrames r 86400000 + 1 := by cases r <;> decide
  have hle := entryFrames_le r hidx c
  rw [countPos_snd, frameMs_le_iff]
  omega

/-- Settles O28: before the milliseconds of the count fewer frames have elapsed, at them exactly as many. -/
theorem positionOfACountIsItsEarliestMillisecond : Obligations.PositionOfACountIsItsEarliestMillisecond := by
  unfold Obligations.PositionOfACountIsItsEarliestMillisecond
  intro r hidx c hc
  refine ⟨countPos_fst r hidx c, posCount_countPos hc, fun ms hearly => ?_, countPos_snd_le hc⟩
  have hfew : msToFrames r ms < entryFrames r hidx c := by
    rwa [← Nat.not_le, ← frameMs_le_iff, Nat.not_le]
  exact (posCount_eq_iff hc hfew.le).not.mpr hfew.ne

/-! ### `TOFRM` (44 R243) -/

theorem exec_tofrm (s : State) :
    exec .tofrm s = .next { s with
      ops := { s.ops with
        fldTime := packTime (countLabel s.rate (posCount s.rate s.hidx s.ops.posidx.toNat s.ops.posms.toNat))
        fldFlags := packFlags s.builtFlags }
      result := 0 } := rfl

/-- Drop-frame counting is in force exactly at rate code 2 (44 R232). -/
theorem rateDf_rateOfCode (code : BitVec 2) : rateDf (rateOfCode code) = (code == 2#2) := by decide +revert

theorem rateDf_rate (s : State) : rateDf s.rate = (s.creg.cfg.extractLsb' 0 2 == 2#2) := by
  rw [State.rate, rateDf_rateOfCode, BitVec.setWidth_eq_extractLsb' (by decide)]

/-- The nibbles taken from a register are packed where they stood. -/
theorem packFlags_nibbles (v : Reg32) (dfl cfl : Bool) :
    (packFlags { unpackFlags v with dfl := dfl, cfl := cfl }).extractLsb' 0 16 = v.extractLsb' 0 16 := by
  apply BitVec.eq_of_getLsbD_eq
  intro i hi
  interval_cases i <;> simp [packFlags, unpackFlags]

/-- Settles O29: the label of the position's count, and the flags read back from their packing. -/
theorem tofrmBuildsTheFrame : Obligations.TofrmBuildsTheFrame := by
  unfold Obligations.TofrmBuildsTheFrame
  rintro s _ rfl
  obtain ⟨-, hvalid, hcount⟩ :=
    packTime_countLabel_spec (posCount_lt s.rate s.hidx s.ops.posidx.toNat s.ops.posms.toNat)
  have hflags := unpackFlags_packFlags s.builtFlags
  exact ⟨_, _, exec_tofrm s, hvalid, hcount.trans (posCount_eq _ _ _ _), packFlags_nibbles _ _ _,
    (congrArg FlagFields.dfl hflags).trans (rateDf_rate s), congrArg FlagFields.cfl hflags, packFlags_reserved _⟩

/-! ### `TOPOS` (44 R244) -/

/-- The position of a count, as `TOPOS` writes it. -/
def putPosition (s : State) (c : Nat) : State :=
  { s with
    ops := { s.ops with
      posidx := BitVec.ofNat 32 (countPos s.rate s.hidx c).1, posms := BitVec.ofNat 32 (countPos s.rate s.hidx c).2 }
    result := 0 }

theorem exec_topos_of_inrange {s : State} (h : inrange (unpackTime s.ops.fldTime) (rateFn s.rate) = true) :
    exec .topos s = .next (putPosition s (labelCount s.rate (unpackTime s.ops.fldTime))) :=
  congrArg Host.Outcome.next (if_pos h)

theorem exec_topos_of_not_inrange {s : State} (h : ¬inrange (unpackTime s.ops.fldTime) (rateFn s.rate) = true) :
    exec .topos s = .next { s with result := resultRange } :=
  congrArg Host.Outcome.next (if_neg h)

/-- Both parts of a position fit their registers. -/
theorem putPosition_toNat {s : State} {c : Nat} (hc : c < rateDay s.rate) :
    (putPosition s c).ops.posidx.toNat = (countPos s.rate s.hidx c).1 ∧
    (putPosition s c).ops.posms.toNat = (countPos s.rate s.hidx c).2 := by
  have hday := rateDay_lt s.rate
  have hidx : (countPos s.rate s.hidx c).1 ≤ c := by
    rw [countPos_fst]
    split
    · exact Nat.div_le_self _ _
    · exact Nat.zero_le _
  have hms := countPos_snd_le (hidx := s.hidx) hc
  constructor
  · exact (BitVec.toNat_ofNat _ _).trans (Nat.mod_eq_of_lt (by omega))
  · exact (BitVec.toNat_ofNat _ _).trans (Nat.mod_eq_of_lt (by omega))

/-- The milliseconds of a count of frames, between the quotient and one more. -/
theorem frameMs_bounds (r : Rate) (w : Nat) :
    frameMs r w * rateNum r < w * 1000 * rateDen r + rateNum r ∧
    w * 1000 * rateDen r ≤ frameMs r w * rateNum r := by
  refine ⟨?_, (ceilDiv_le_iff (rateNum_pos r)).mp le_rfl⟩
  have hnum := rateNum_pos r
  have hmul := Nat.div_mul_le_self (w * 1000 * rateDen r + rateNum r - 1) (rateNum r)
  unfold frameMs ceilDiv
  omega

/-- Settles O30: the position fits its registers, and `frameMs_bounds` is the ceiling. -/
theorem toposWritesThePosition : Obligations.ToposWritesThePosition := by
  unfold Obligations.ToposWritesThePosition
  rintro s c rfl
  refine ⟨fun hin => ⟨_, _, exec_topos_of_inrange hin, ?_⟩,
    fun hout => exec_topos_of_not_inrange (ne_true_of_eq_false hout)⟩
  obtain ⟨hi, hm⟩ := putPosition_toNat (labelCount_lt hin)
  refine ⟨hi, ?_⟩
  show (putPosition s _).ops.posms.toNat * _ < _ ∧ _ ≤ (putPosition s _).ops.posms.toNat * _
  rw [hm]
  exact frameMs_bounds s.rate (entryFrames s.rate s.hidx _)

/-- Settles O31: `pos2cnt` gives the count back, and `cnt2lbl` the label. -/
theorem toposThenTofrmRestoresTheLabel : Obligations.ToposThenTofrmRestoresTheLabel := by
  unfold Obligations.ToposThenTofrmRestoresTheLabel
  intro s hvalid
  have hin := inrange_of_validLabel hvalid
  obtain ⟨hi, hm⟩ := putPosition_toNat (labelCount_lt hin)
  refine ⟨_, _, exec_topos_of_inrange hin, exec_tofrm _, ?_, rfl⟩
  show packTime (countLabel s.rate (posCount s.rate s.hidx _ _)) = s.ops.fldTime
  rw [hi, hm, posCount_countPos (labelCount_lt hin), countLabel_labelCount hvalid, packTime_unpackTime]

end Sys2Proof.Proofs

namespace Sys2Proof.Proofs

open Sys2Proof.Machine

/-! The sync engine (spec/45_sync_engine.md): the position latches and the emitted frame, the operations of the receive
mode, and the rules on what any step can do to the lock state and the records. -/

/-! ### Emit mode (45 R270 to R274) -/

theorem exec_posIdx (v : Reg32) (s : State) : exec (.posIdx v) s = .next { s with pos := ⟨v, s.pos.ms⟩ } := rfl

theorem exec_posMs (v : Reg32) (s : State) : exec (.posMs v) s = .next { s with pos := ⟨s.pos.idx, v⟩ } := rfl

/-- Settles O36, by the meanings of the two events. -/
theorem positionEventsLoadTheirLatch : Obligations.PositionEventsLoadTheirLatch := by
  unfold Obligations.PositionEventsLoadTheirLatch
  intro s v w
  exact ⟨_, _, exec_posIdx v s, rfl, exec_posMs w _, rfl, exec_posMs w s⟩

/-- The model's `|a − b|` is the absolute value of the difference (00 R9). -/
theorem absDiff_eq_natAbs (a b : Nat) : absDiff a b = ((a : Int) - b).natAbs := by
  unfold absDiff
  omega

/-- A count below `DAY` is read back from `CNT` and `PREVCNT`. -/
theorem toNat_ofNat_storedCount {r : Rate} {c : Nat} (h : c < rateDay r) : (BitVec.ofNat 22 c).toNat = c := by
  have hday := rateDay_lt r
  rw [BitVec.toNat_ofNat, Nat.mod_eq_of_lt (by omega)]

/-- The count of the first frame is the position's (45 R272). -/
theorem emitCount_of_first {s : State} (h : s.tb.tbvalid = false) :
    emitCount s = posCount s.rate s.hidx s.pos.idx.toNat s.pos.ms.toNat := if_pos h

/-- The count of a later frame: the successor while the position is within `EMITTOL` of it, the position's after a
jump (45 R272). -/
theorem emitCount_of_later {s : State} (h : s.tb.tbvalid = true) :
    emitCount s =
      if absDiff (posCount s.rate s.hidx s.pos.idx.toNat s.pos.ms.toNat) (nextCount s.rate s.tb.cnt.toNat) ≤
          s.creg.emittol.toNat then nextCount s.rate s.tb.cnt.toNat
      else posCount s.rate s.hidx s.pos.idx.toNat s.pos.ms.toNat := if_neg (by rw [h]; decide)

/-- The bits `encode` leaves out are 0, as one word (41 R144). -/
theorem encodeFrame_and_uncarried (l : Label) (g : FlagFields) : encodeFrame l g &&& ~~~carriedBits = 0#80 := by
  obtain ⟨hzero, -⟩ := unassignedFrameBitsAreIgnored
  exact hzero l g

/-- The frame of a count decodes to its label, which is valid and has that count, and to the flags (45 R274). -/
theorem decodeFrame_of_count {r : Rate} {c : Nat} (g : FlagFields) (h : c < rateDay r) :
    ∃ f, decodeFrame (encodeFrame (countLabel r c) g) (rateFn r) = .ok f ∧ ValidLabel r (frameLabel f) ∧
      labelCount r (frameLabel f) = c ∧ frameFlags f = g := by
  obtain ⟨hvalid, hcount⟩ := countLabel_spec h
  obtain ⟨f, hdec, hlabel, hflags⟩ := decodeFrame_encodeFrame g (inrange_of_validLabel hvalid)
  exact ⟨f, hdec, hlabel ▸ hvalid, hlabel ▸ hcount, hflags⟩

/-- Settles O42: the count is `emitCount`, below `DAY`, and the frame loaded is the encoding of its label. -/
theorem emitNextFreeRunsOrJams : Obligations.EmitNextFreeRunsOrJams := by
  unfold Obligations.EmitNextFreeRunsOrJams
  rintro s _ _ rfl rfl
  have hfits := toNat_ofNat_storedCount (emitCount_lt s)
  obtain ⟨f, hdec, hvalid, hcount, hflags⟩ := decodeFrame_of_count s.builtFlags (emitCount_lt s)
  refine ⟨BitVec.ofNat 22 (emitCount s), _, f, by rw [exec_emitNext, emitNext_eq], fun hfirst => ?_,
    fun hlater hnear => ?_, fun hlater hfar => ?_, hdec, hvalid, hcount.trans hfits.symm,
    (congrArg FlagFields.dfl hflags).trans (rateDf_rate s), congrArg FlagFields.cfl hflags,
    congrArg FlagFields.ub0 hflags, congrArg FlagFields.ub1 hflags, congrArg FlagFields.ub2 hflags,
    congrArg FlagFields.ub3 hflags, encodeFrame_and_uncarried _ _⟩
  · rw [hfits, emitCount_of_first hfirst]
  · rw [← absDiff_eq_natAbs] at hnear
    rw [hfits, emitCount_of_later hlater]
    exact if_pos hnear
  · rw [← absDiff_eq_natAbs] at hfar
    rw [hfits, emitCount_of_later hlater]
    exact if_neg (Nat.not_le.mpr hfar)

/-! ### The drift policy (45 R282, R283) -/

theorem exec_seEval (c : BitVec 22) (s : State) : exec (.seEval c) s = .next (seEval c.toNat s) := rfl

/-- The extreme bound in milliseconds, the greatest value switching it off (00 R11). -/
theorem beyondExtreme_iff (s : State) (a : Nat) :
    s.extDis = false ∧ s.extF < a ↔
      s.creg.exthr ≠ 0xFFFFFFFF#32 ∧ s.creg.exthr.toNat * rateNum s.rate / (1000 * rateDen s.rate) < a :=
  and_congr_left' beq_eq_false_iff_ne

theorem largeF_eq (s : State) : s.largeF = s.creg.largethr.toNat * rateNum s.rate / (1000 * rateDen s.rate) := rfl

theorem failF_eq (s : State) : s.failF = s.creg.failthr.toNat * rateNum s.rate / (1000 * rateDen s.rate) := rfl

/-- A `Smooth` once the timebase is valid loads the count and appends its correction. -/
theorem smoothTo_of_later {s : State} (h : s.tb.tbvalid = true) (c : Nat) :
    smoothTo s c =
      { s with tb := { s.tb with cnt := BitVec.ofNat 22 c }, records := s.records ++ [corrOf s .smooth c] } := by
  rw [smoothTo_eq, ← h]

/-- Settles O53, by the five outcomes of `SE.EVAL`. -/
theorem driftPolicyIsApplied : Obligations.DriftPolicyIsApplied := by
  unfold Obligations.DriftPolicyIsApplied
  rintro s c _ _ _ jam rfl rfl rfl hjam
  have hload : BitVec.ofNat 22 c.toNat = c := by rw [BitVec.ofNat_toNat, BitVec.setWidth_eq]
  have hjamTo (first : Bool) : jamTo s c.toNat first = jam first := by
    rw [hjam, jamTo_eq, hload]
    rfl
  have hbound := beyondExtreme_iff s (absDiff s.tb.cnt.toNat c.toNat)
  rw [exec_seEval, ← absDiff_eq_natAbs, ← largeF_eq]
  rcases seEval_cases c.toNat s with ⟨hfirst, h⟩ | ⟨hlater, hdis, hext, h⟩ | ⟨hlater, hext, hsmall, h⟩ |
      ⟨hlater, hext, hsmall, hlarge, h⟩ | ⟨hlater, hext, hsmall, hlarge, h⟩ <;> rw [h]
  · rw [if_pos hfirst, hjamTo]
  · rw [if_neg (by rw [hlater]; decide), if_pos (hbound.mp ⟨hdis, hext⟩)]
  · rw [if_neg (by rw [hlater]; decide), if_neg (hbound.not.mp hext), if_pos hsmall]
  · rw [if_neg (by rw [hlater]; decide), if_neg (hbound.not.mp hext), if_neg (Nat.not_le.mpr hsmall), if_pos hlarge,
      smoothTo_of_later hlater, hload]
    rfl
  · rw [if_neg (by rw [hlater]; decide), if_neg (hbound.not.mp hext), if_neg (Nat.not_le.mpr hsmall),
      if_neg (Nat.not_le.mpr hlarge), hjamTo]

/-! ### A valid frame (45 R276, R280) -/

/-- The count of a received frame. -/
def frameCount (f : LtcFrame) (s : State) : Nat := labelCount s.rate (frameLabel f)

/-- The statistics after a valid frame. -/
def countFrame (f : LtcFrame) (st : Stats) : Stats :=
  { st with okcnt := st.okcnt + 1, rxtime := packTime (frameLabel f), rxflags := packFlags (frameFlags f) }

/-- The state in which the drift of a valid frame is judged: counted, and `Locked`. -/
def lockedOn (f : LtcFrame) (s : State) : State :=
  { s with stat := countFrame f s.stat, se := { s.se with lock := .locked, gap := 0 } }

/-- The count of a valid frame is remembered for the next one. -/
def rememberCount (c : Nat) (s : State) : State :=
  { s with se := { s.se with prevcnt := BitVec.ofNat 22 c, prevv := true } }

/-- A valid frame finds or makes the engine `Locked` exactly in `Locked`, and in `Acquiring` after its predecessor
(45 R276). -/
theorem lockOnFrame_eq_locked_iff {r : Rate} {e : SyncEngine} {c : Nat} :
    lockOnFrame r e c = .locked ↔
      e.lock = .locked ∨ (e.lock = .acquiring ∧ e.prevv = true ∧ c = nextCount r e.prevcnt.toNat) := by
  unfold lockOnFrame
  cases e.lock <;> simp

/-- Otherwise it leaves it in `Acquiring`. -/
theorem lockOnFrame_eq_acquiring_iff {r : Rate} {e : SyncEngine} {c : Nat} :
    lockOnFrame r e c = .acquiring ↔
      e.lock = .unlocked ∨ e.lock = .lost ∨
        (e.lock = .acquiring ∧ ¬(e.prevv = true ∧ c = nextCount r e.prevcnt.toNat)) := by
  unfold lockOnFrame
  cases e.lock <;> simp

theorem lockOnFrame_cases (r : Rate) (e : SyncEngine) (c : Nat) :
    lockOnFrame r e c = .locked ∨ lockOnFrame r e c = .acquiring := by
  rw [lockOnFrame_eq_locked_iff, lockOnFrame_eq_acquiring_iff]
  cases e.lock <;> simp [em]

/-- A valid frame that finds or makes the engine `Locked` is judged. -/
theorem seFrame_of_locked {f : LtcFrame} {s : State} (h : lockOnFrame s.rate s.se (frameCount f s) = .locked) :
    seFrame f s = rememberCount (frameCount f s) (seEval (frameCount f s) (lockedOn f s)) := by
  have hstate : (s.putStat (countFrame f s.stat)).putSe
      { s.se with gap := 0, lock := lockOnFrame s.rate s.se (frameCount f s) } = lockedOn f s := by
    rw [h]
    rfl
  exact (congrArg (rememberCount (frameCount f s)) (if_pos h)).trans (by rw [← hstate]; rfl)

/-- Any other valid frame is only remembered. -/
theorem seFrame_of_acquiring {f : LtcFrame} {s : State} (h : lockOnFrame s.rate s.se (frameCount f s) = .acquiring) :
    seFrame f s =
      { s with
        stat := countFrame f s.stat
        se := ⟨.acquiring, BitVec.ofNat 22 (frameCount f s), true, 0⟩ } := by
  have hskip : lockOnFrame s.rate s.se (frameCount f s) ≠ .locked := by rw [h]; decide
  refine (congrArg (rememberCount (frameCount f s)) (if_neg hskip)).trans ?_
  show State.putSe _ _ = _
  rw [← h]
  rfl

/-- The count of a frame with time values in range fits `PREVCNT`, at every rate. -/
theorem frameCount_lt {f : LtcFrame} (s : State) (h : f.wf = true) : frameCount f s < 2 ^ 22 := by
  simp only [LtcFrame.wf, Bool.and_eq_true, decide_eq_true_eq] at h
  obtain ⟨⟨⟨hhh, hmm⟩, hss⟩, hff⟩ := h
  unfold frameCount
  cases s.rate <;> simp only [labelCount, frameLabel, rateFn, rateDf, if_true, Bool.false_eq_true, if_false] <;> omega

/-- Settles O52: the two results of `lockOnFrame` are the two groups of lock states. -/
theorem validFrameDrivesTheLock : Obligations.ValidFrameDrivesTheLock := by
  unfold Obligations.ValidFrameDrivesTheLock
  rintro s f _ hwf rfl
  have hcount : (BitVec.ofNat 22 (frameCount f s)).toNat = frameCount f s :=
    (BitVec.toNat_ofNat _ _).trans (Nat.mod_eq_of_lt (frameCount_lt s hwf))
  refine ⟨countFrame f s.stat, BitVec.ofNat 22 (frameCount f s), rfl, rfl, unpackTime_packTime_frameLabel f,
    unpackFlags_packFlags _, hcount, fun hother => ?_, fun hlocks => ?_⟩
  · rw [exec_seFrame, seFrame_of_acquiring (lockOnFrame_eq_acquiring_iff.mpr hother)]
  · refine ⟨seEval (frameCount f s) (lockedOn f s), ?_, ?_⟩
    · rw [exec_seEval, hcount]
      rfl
    · rw [exec_seFrame, seFrame_of_locked (lockOnFrame_eq_locked_iff.mpr hlocks)]
      rfl

/-! ### A frame error (45 R285) -/

/-- `SE.FERR` counts the error, records its code, and forgets the predecessor in `Acquiring` only. -/
theorem seFerr_spec (e : FrameError) (s : State) :
    seFerr e s =
      { s with
        stat := { s.stat with ferrcnt := s.stat.ferrcnt + 1 }
        err := { s.err with lastferr := ferrCode e }
        se := { s.se with prevv := s.se.prevv && !decide (s.se.lock = .acquiring) } } := by
  unfold seFerr
  dsimp only
  by_cases hl : s.se.lock = .acquiring
  · rw [decide_eq_true hl, Bool.not_true, Bool.and_false]
    exact if_pos hl
  · rw [decide_eq_false hl, Bool.not_false, Bool.and_true]
    exact if_neg hl

/-- Settles O54, by the whole next state of `SE.FERR`. -/
theorem frameErrorIsCountedAndDiscarded : Obligations.FrameErrorIsCountedAndDiscarded := by
  unfold Obligations.FrameErrorIsCountedAndDiscarded
  intro s e
  refine ⟨ferrCode e, ?_, by cases e <;> rfl⟩
  rw [exec_seFerr, seFerr_spec]

/-! ### The local tick (45 R286) -/

/-- `GAP` after a local tick: it saturates. -/
def gapNext (g : Reg32) : Reg32 := BitVec.ofNat 32 (sat32 (g.toNat + 1))

theorem gapNext_toNat (g : Reg32) : (gapNext g).toNat = min (g.toNat + 1) 0xFFFFFFFF := timerNext_toNat g

/-- What a local tick makes of the engine: `Locked` and `Lost` end once `GAP` exceeds the failure threshold, and
`GAP` counts otherwise. -/
theorem seTick_cases (s : State) :
    ∃ e : SyncEngine, seTick s =
        { s with tb := { s.tb with cnt := BitVec.ofNat 22 (nextCount s.rate s.tb.cnt.toNat) }, se := e } ∧
      ((s.se.lock = .locked ∧ s.failF < (gapNext s.se.gap).toNat ∧ e = { s.se with lock := .lost, gap := 0 }) ∨
        (s.se.lock = .lost ∧ s.failF < (gapNext s.se.gap).toNat ∧ e = { s.se with lock := .unlocked, gap := 0 }) ∨
        (¬(s.se.lock = .locked ∧ s.failF < (gapNext s.se.gap).toNat) ∧
          ¬(s.se.lock = .lost ∧ s.failF < (gapNext s.se.gap).toNat) ∧ e = { s.se with gap := gapNext s.se.gap })) := by
  unfold seTick
  dsimp only
  by_cases hlocked : s.se.lock = .locked ∧ s.failF < (gapNext s.se.gap).toNat
  · exact ⟨_, if_pos hlocked, .inl ⟨hlocked.1, hlocked.2, rfl⟩⟩
  · by_cases hlost : s.se.lock = .lost ∧ s.failF < (gapNext s.se.gap).toNat
    · exact ⟨_, (if_neg hlocked).trans (if_pos hlost), .inr (.inl ⟨hlost.1, hlost.2, rfl⟩)⟩
    · exact ⟨_, (if_neg hlocked).trans (if_neg hlost), .inr (.inr ⟨hlocked, hlost, rfl⟩)⟩

/-- Settles O55, by the three outcomes of `SE.TICK`. -/
theorem tickCountsAndTimesOut : Obligations.TickCountsAndTimesOut := by
  unfold Obligations.TickCountsAndTimesOut
  rintro s _ _ rfl rfl
  obtain ⟨e, htick, hcases⟩ := seTick_cases s
  rw [← gapNext_toNat, ← failF_eq]
  refine ⟨_, e, congrArg Host.Outcome.next htick, toNat_ofNat_storedCount (nextCount_lt _ _), ?_⟩
  rcases hcases with ⟨hl, hlate, rfl⟩ | ⟨hl, hlate, rfl⟩ | ⟨hlocked, hlost, rfl⟩
  · refine ⟨rfl, rfl, fun _ _ => ⟨rfl, rfl⟩, fun h _ => ?_, fun h => ?_⟩
    · simp [hl] at h
    · simp [hl, Nat.not_le.mpr hlate] at h
  · refine ⟨rfl, rfl, fun h _ => ?_, fun _ _ => ⟨rfl, rfl⟩, fun h => ?_⟩
    · simp [hl] at h
    · simp [hl, Nat.not_le.mpr hlate] at h
  · exact ⟨rfl, rfl, fun hl hlate => absurd ⟨hl, hlate⟩ hlocked, fun hl hlate => absurd ⟨hl, hlate⟩ hlost,
      fun _ => ⟨rfl, rfl⟩⟩

/-! ### What a received sample does to the engine (43 R190 to R198) -/

/-- `t` is `s` as far as the sync engine goes: what its operations read and write. -/
structure SameSync (s t : State) : Prop where
  creg : t.creg = s.creg
  stat : t.stat = s.stat
  tb : t.tb = s.tb
  se : t.se = s.se
  records : t.records = s.records

theorem SameSync.refl (s : State) : SameSync s s := ⟨rfl, rfl, rfl, rfl, rfl⟩

theorem SameSync.trans {s t u : State} (h : SameSync s t) (k : SameSync t u) : SameSync s u :=
  ⟨k.creg.trans h.creg, k.stat.trans h.stat, k.tb.trans h.tb, k.se.trans h.se, k.records.trans h.records⟩

/-- The demodulator and the shift register are no part of the engine. -/
theorem sameSync_line (s : State) (d : Demodulator) (b : Fbd) : SameSync s { s with dem := d, fbd := b } :=
  ⟨rfl, rfl, rfl, rfl, rfl⟩

/-- What the bits of a sample can bring the engine: nothing, one valid frame, or one frame error. -/
inductive Judged (s t : State) : Prop
  | silent (h : SameSync s t)
  | frame (f : LtcFrame) (u : State) (hbefore : SameSync s u) (hafter : SameSync (seFrame f u) t)
  | error (e : FrameError) (u : State) (hbefore : SameSync s u) (hafter : SameSync (seFerr e u) t)

theorem Judged.before {s t u : State} (h : SameSync s t) (k : Judged t u) : Judged s u := by
  cases k with
  | silent k => exact .silent (h.trans k)
  | frame f v hbefore hafter => exact .frame f v (h.trans hbefore) hafter
  | error e v hbefore hafter => exact .error e v (h.trans hbefore) hafter

theorem Judged.after {s t u : State} (h : Judged s t) (k : SameSync t u) : Judged s u := by
  cases h with
  | silent h => exact .silent (h.trans k)
  | frame f v hbefore hafter => exact .frame f v hbefore (hafter.trans k)
  | error e v hbefore hafter => exact .error e v hbefore (hafter.trans k)

theorem rxDec_judged (s : State) : Judged s (rxDec s) := by
  rcases rxDec_cases s with ⟨f, -, h⟩ | ⟨e, -, h⟩ <;> rw [h]
  · exact .frame f s (.refl s) (.refl _)
  · exact .error e s (.refl s) (.refl _)

theorem fbdShift_judged (b : Bool) (s : State) : Judged s (fbdShift b s) := by
  rcases fbdShift_cases b s with ⟨-, h⟩ | ⟨-, -, h⟩ | ⟨-, -, h⟩ <;> rw [h]
  · exact ((rxDec_judged _).before (sameSync_line s s.dem _)).after (sameSync_line _ (rxDec _).dem _)
  · exact .silent (sameSync_line s s.dem _)
  · exact .silent (sameSync_line s s.dem _)

theorem demodCls_judged (d : Reg32) (s : State) : Judged s (demodCls d s) := by
  rcases demodCls_cases d s with ⟨-, -, h⟩ | ⟨-, -, h⟩ | ⟨-, -, h⟩ | ⟨-, -, h⟩ <;> rw [h]
  · exact (fbdShift_judged true _).before (sameSync_line s _ s.fbd)
  · exact .silent (sameSync_line s _ s.fbd)
  · exact (fbdShift_judged false _).before (sameSync_line s _ s.fbd)
  · exact .silent (sameSync_line s _ s.fbd)

theorem onEdge_judged (s : State) : Judged s (onEdge s) := by
  cases hfirst : s.dem.tmrv with
  | false =>
    rw [onEdge_of_first hfirst]
    exact .silent (sameSync_line s _ s.fbd)
  | true =>
    rw [onEdge_of_later hfirst]
    exact ((demodCls_judged _ _).before (sameSync_line s _ s.fbd)).after (sameSync_line _ _ (demodCls _ _).fbd)

/-- A received sample: the local tick, and then at most one candidate. -/
theorem smpIn_judged (x : Sample) {s : State} (h : s.run.runRecv = true) : Judged (rxTickgen s) (smpIn x s) := by
  rw [smpIn_of_receiving h rfl rfl, demodEdge_eq]
  have hline : SameSync (rxTickgen s) (advanceTimer { rxTickgen s with dem := (edgeDetect (rxTickgen s).dem x).2 }) :=
    sameSync_line _ _ (rxTickgen s).fbd
  split
  · exact (onEdge_judged _).before hline
  · exact .silent hline

/-- What the tick of a sample can bring the engine: the count and the gap go on, and silence ends `Locked` and
`Lost`. -/
structure Ticked (s t : State) : Prop where
  creg : t.creg = s.creg
  stat : t.stat = s.stat
  records : t.records = s.records
  tbvalid : t.tb.tbvalid = s.tb.tbvalid
  prevcnt : t.se.prevcnt = s.se.prevcnt
  prevv : t.se.prevv = s.se.prevv
  lock : t.se.lock = s.se.lock ∨ (s.se.lock = .lost ∧ t.se.lock = .unlocked) ∨
    (s.se.lock = .locked ∧ t.se.lock = .lost ∧ s.failF < s.se.gap.toNat + 1 ∧ t.se.gap = 0)

/-- `GAP` after a tick is at most one more than before. -/
theorem lt_of_lt_gapNext {n : Nat} {g : Reg32} (h : n < (gapNext g).toNat) : n < g.toNat + 1 := by
  rw [gapNext_toNat] at h
  omega

theorem rxTickgen_ticked (s : State) : Ticked s (rxTickgen s) := by
  rcases rxTickgen_cases s with ⟨-, h⟩ | ⟨-, h⟩ <;> rw [h]
  · obtain ⟨e, htick, hcases⟩ := seTick_cases { s with
      tb := { s.tb with rxtacc := BitVec.ofNat 40 (s.tb.rxtacc.toNat + rateNum s.rate - s.rateA) } }
    rw [htick]
    rcases hcases with ⟨hl, hlate, rfl⟩ | ⟨hl, -, rfl⟩ | ⟨-, -, rfl⟩
    · exact ⟨rfl, rfl, rfl, rfl, rfl, rfl, .inr (.inr ⟨hl, rfl, lt_of_lt_gapNext hlate, rfl⟩)⟩
    · exact ⟨rfl, rfl, rfl, rfl, rfl, rfl, .inr (.inl ⟨hl, rfl⟩)⟩
    · exact ⟨rfl, rfl, rfl, rfl, rfl, rfl, .inl rfl⟩
  · exact ⟨rfl, rfl, rfl, rfl, rfl, rfl, .inl rfl⟩

/-! ### What any step does to the engine (00 R5) -/

/-- No sample was received: the records stay, and the engine stays or is reset. -/
structure EngineAtRest (s t : State) : Prop where
  records : t.records = s.records
  se : t.se = s.se ∨ t.se = .reset

theorem EngineAtRest.refl (s : State) : EngineAtRest s s := ⟨rfl, .inl rfl⟩

theorem EngineAtRest.trans {s t u : State} (h : EngineAtRest s t) (k : EngineAtRest t u) : EngineAtRest s u := by
  refine ⟨k.records.trans h.records, ?_⟩
  rcases k.se with hse | hse
  · rw [hse]
    exact h.se
  · exact .inr hse

/-- A start or a stop that a condition decides on. -/
theorem EngineAtRest.ite {p : Prop} [Decidable p] {s t u : State} (h : EngineAtRest s t) (k : EngineAtRest t u) :
    EngineAtRest s (if p then u else t) := by
  split
  · exact h.trans k
  · exact h

theorem recordConfigError_atRest (s : State) : EngineAtRest s (recordConfigError s) := ⟨rfl, .inl rfl⟩

theorem emitNext_atRest (s : State) : EngineAtRest s (emitNext s) := ⟨rfl, .inl rfl⟩

theorem startEmit_atRest (s : State) : EngineAtRest s (startEmit s) := ⟨rfl, .inl rfl⟩

theorem emitStop_atRest (s : State) : EngineAtRest s (emitStop s) := ⟨rfl, .inl rfl⟩

theorem startRecv_atRest (s : State) : EngineAtRest s (startRecv s) := ⟨rfl, .inr rfl⟩

theorem stopRecv_atRest (s : State) : EngineAtRest s (stopRecv s) := ⟨rfl, .inr rfl⟩

theorem runCommand_atRest (op : BitVec 8) (s : State) : EngineAtRest s (runCommand op s) := by
  by_cases hA : op.toNat = 0x0A
  · rw [runCommand_sreset op s hA]
    exact ⟨rfl, .inr rfl⟩
  · by_cases h9 : op.toNat = 0x09
    · rw [runCommand_clrerr op s h9, cmdClrerr_eq]
      exact ⟨rfl, .inl rfl⟩
    · obtain ⟨o, r, h⟩ := runCommand_eq op s h9 hA
      rw [h]
      exact ⟨rfl, .inl rfl⟩

theorem writeOffset_atRest {a : Offset} (d : Reg32) (s : State) (hctrl : a ≠ 0x000#12) (hcmd : a ≠ 0x03C#12) :
    EngineAtRest s (writeOffset a d s) := by
  rcases writeOffset_plain d s hctrl hcmd with h | ⟨r, -, h⟩
  · rw [h]
    exact ⟨rfl, .inl rfl⟩
  · obtain ⟨g, o, hstore⟩ := storeReg_eq s r d
    rw [h, hstore]
    exact ⟨rfl, .inl rfl⟩

/-- `REG.WR CTRL` resets the engine when it starts or stops the receive path, and otherwise leaves it alone. -/
theorem ctrlWrite_atRest (eo ei : Bool) (s : State) : EngineAtRest s (ctrlWrite eo ei s) := by
  unfold ctrlWrite
  dsimp only
  generalize ctrlGrant eo ei s = g
  refine .ite ?_ (emitStop_atRest _)
  refine .ite ?_ (stopRecv_atRest _)
  refine .ite ?_ (startRecv_atRest _)
  refine .ite ?_ (startEmit_atRest _)
  exact .trans (.ite (.refl s) (recordConfigError_atRest s)) ⟨rfl, .inl rfl⟩

theorem devErr_atRest (s : State) : EngineAtRest s (devErr s) := by
  unfold devErr
  dsimp only
  refine .ite ?_ (emitStop_atRest _)
  refine .ite ?_ (stopRecv_atRest _)
  exact ⟨rfl, .inl rfl⟩

theorem emitSample_atRest (s : State) : EngineAtRest s (emitSample s) := by
  obtain ⟨m, h⟩ := emitSample_eq s
  rw [h]
  exact ⟨rfl, .inl rfl⟩

theorem smpOut_atRest (s : State) : EngineAtRest s (smpOut s) := by
  rcases smpOut_cases s with ⟨-, h⟩ | ⟨-, -, h⟩ | ⟨-, -, -, h⟩ | ⟨-, -, -, h⟩ <;> rw [h]
  · exact ⟨rfl, .inl rfl⟩
  · exact emitSample_atRest s
  · exact ⟨rfl, .inl rfl⟩
  · exact .trans (emitNext_atRest s) (emitSample_atRest (emitNext s))

/-- An event is at rest for the engine, or is a sample that a running receive path takes: a tick, then a
judgement. -/
theorem eventResult_engine {s t : State} {i : Instr} (h : EventResult s i t) :
    EngineAtRest s t ∨ (s.run.runRecv = true ∧ ∃ u, Ticked s u ∧ Judged u t) := by
  cases h with
  | rst => exact .inl ⟨rfl, .inr rfl⟩
  | regWr d hctrl hcmd => exact .inl (writeOffset_atRest d s hctrl hcmd)
  | regWrCtrl eo ei => exact .inl (ctrlWrite_atRest eo ei s)
  | regWrCmd op => exact .inl (runCommand_atRest op s)
  | regRd a => exact .inl ⟨rfl, .inl rfl⟩
  | smpIn x =>
    cases hon : s.run.runRecv with
    | false =>
      have hoff : smpIn x s = s := if_pos hon
      exact .inl ⟨by rw [hoff], .inl (by rw [hoff])⟩
    | true => exact .inr ⟨rfl, rxTickgen s, rxTickgen_ticked s, smpIn_judged x hon⟩
  | smpOut => exact .inl (smpOut_atRest s)
  | posIdx v => exact .inl ⟨rfl, .inl rfl⟩
  | posMs v => exact .inl ⟨rfl, .inl rfl⟩
  | devErr => exact .inl (devErr_atRest s)

/-- The same for a step; taking the event off the list is nothing to the engine. -/
theorem step_engine {s t : State} (h : step s = .next t) :
    EngineAtRest s t ∨ (s.run.runRecv = true ∧ ∃ u, Ticked s u ∧ Judged u t) := by
  rcases eventResult_of_step h with rfl | ⟨w, rest, -, hev⟩
  · exact .inl ⟨rfl, .inl rfl⟩
  · rcases eventResult_engine hev with ⟨hrecords, hse⟩ | ⟨hon, u, htick, hjudged⟩
    · exact .inl ⟨hrecords, hse⟩
    · exact .inr ⟨hon, u, ⟨htick.creg, htick.stat, htick.records, htick.tbvalid, htick.prevcnt, htick.prevv,
        htick.lock⟩, hjudged⟩

/-! ### The lock state (45 R276, R288) -/

/-- `SE.EVAL` keeps `LOCK`, or ends it beyond the extreme bound (45 R283). -/
theorem seEval_lock (c : Nat) (s : State) :
    (seEval c s).se.lock = s.se.lock ∨ (seEval c s).se.lock = .unlocked := by
  rcases seEval_cases c s with ⟨-, h⟩ | ⟨-, -, -, h⟩ | ⟨-, -, -, h⟩ | ⟨-, -, -, -, h⟩ | ⟨-, -, -, -, h⟩ <;> rw [h]
  · exact .inl (by rw [jamTo_eq])
  · exact .inr rfl
  · exact .inl rfl
  · exact .inl (by rw [smoothTo_eq])
  · exact .inl (by rw [jamTo_eq])

/-- A valid frame leaves the engine `Acquiring`, or judged: `Locked` or `Unlocked`. -/
theorem seFrame_lock_ne_lost (f : LtcFrame) (s : State) : (seFrame f s).se.lock ≠ .lost := by
  rcases lockOnFrame_cases s.rate s.se (frameCount f s) with h | h
  · rw [seFrame_of_locked h]
    rcases seEval_lock (frameCount f s) (lockedOn f s) with hl | hl
    · exact fun hlost => absurd (hl.symm.trans hlost) (by decide : Lock.locked ≠ .lost)
    · exact fun hlost => absurd (hl.symm.trans hlost) (by decide : Lock.unlocked ≠ .lost)
  · rw [seFrame_of_acquiring h]
    exact (by decide : Lock.acquiring ≠ .lost)

/-- A valid frame that ends `Locked` found the engine so, or `Acquiring` with the frame's predecessor remembered; the
frame is remembered in its turn. -/
theorem seFrame_locks {f : LtcFrame} {s : State} (h : (seFrame f s).se.lock = .locked) :
    (s.se.lock = .locked ∨
      (s.se.lock = .acquiring ∧ s.se.prevv = true ∧ frameCount f s = nextCount s.rate s.se.prevcnt.toNat)) ∧
    (seFrame f s).se.prevcnt = BitVec.ofNat 22 (frameCount f s) := by
  rcases lockOnFrame_cases s.rate s.se (frameCount f s) with hlock | hlock
  · exact ⟨lockOnFrame_eq_locked_iff.mp hlock, by rw [seFrame_of_locked hlock]; rfl⟩
  · rw [seFrame_of_acquiring hlock] at h
    cases h

/-- Settles O58: a tick enters neither `Locked` nor `Acquiring`, so only the valid frame of the step can lock. -/
theorem lockNeedsAConsecutivePair : Obligations.LockNeedsAConsecutivePair := by
  unfold Obligations.LockNeedsAConsecutivePair
  intro s t hstep hlocked hnot
  rcases step_engine hstep with ⟨-, hse⟩ | ⟨hon, u, htick, hjudged⟩
  · rcases hse with hse | hse <;> rw [hse] at hlocked
    · exact absurd hlocked hnot
    · cases hlocked
  have hkept (l : Lock) (hl : u.se.lock = l) (hlost : l ≠ .lost) (hoff : l ≠ .unlocked) : s.se.lock = l := by
    rcases htick.lock with h | ⟨-, h⟩ | ⟨-, h, -⟩
    · exact h.symm.trans hl
    · exact absurd (hl.symm.trans h) hoff
    · exact absurd (hl.symm.trans h) hlost
  have hnot' : u.se.lock ≠ .locked := fun hl => hnot (hkept _ hl (by decide) (by decide))
  cases hjudged with
  | silent h => exact absurd (h.se ▸ hlocked) hnot'
  | error e v hbefore hafter =>
    rw [hafter.se, seFerr_spec] at hlocked
    exact absurd (hbefore.se ▸ hlocked) hnot'
  | frame f v hbefore hafter =>
    rw [hafter.se] at hlocked
    obtain ⟨hfound, hprev⟩ := seFrame_locks hlocked
    obtain ⟨hokcnt, -⟩ := seFrame_records f v
    have hrate : v.rate = s.rate := rate_congr (hbefore.creg.trans htick.creg)
    rw [hbefore.se, hrate, htick.prevcnt, htick.prevv] at hfound
    rcases hfound with hl | ⟨hl, hprevv, hpair⟩
    · exact absurd hl hnot'
    · refine ⟨hon, hkept _ hl (by decide) (by decide), hprevv, ?_, ?_⟩
      · rw [hafter.se, hprev, hpair]
        exact toNat_ofNat_storedCount (nextCount_lt _ _)
      · rw [hafter.stat, hokcnt, hbefore.stat, htick.stat]

/-- Settles O59: a valid frame never leaves the engine `Lost` and a frame error leaves it as it is, so the tick of the
step enters `Lost`. -/
theorem lostOnlyAfterTheFailureThreshold : Obligations.LostOnlyAfterTheFailureThreshold := by
  unfold Obligations.LostOnlyAfterTheFailureThreshold
  intro s t hstep hlost hnot
  rcases step_engine hstep with ⟨-, hse⟩ | ⟨-, u, htick, hjudged⟩
  · rcases hse with hse | hse <;> rw [hse] at hlost
    · exact absurd hlost hnot
    · cases hlost
  have hticked : u.se.lock = .lost ∧ t.se.gap = u.se.gap := by
    cases hjudged with
    | silent h => exact ⟨h.se ▸ hlost, by rw [h.se]⟩
    | error e v hbefore hafter =>
      rw [hafter.se, seFerr_spec] at hlost ⊢
      exact ⟨hbefore.se ▸ hlost, by rw [hbefore.se]⟩
    | frame f v hbefore hafter => exact absurd (hafter.se ▸ hlost) (seFrame_lock_ne_lost f v)
  obtain ⟨hlostTick, hgap⟩ := hticked
  rcases htick.lock with h | ⟨-, h⟩ | ⟨hl, -, hlate, hzero⟩
  · exact absurd (h.symm.trans hlostTick) hnot
  · exact absurd (h.symm.trans hlostTick) (by decide)
  · exact ⟨hl, hlate, hgap.trans hzero⟩

/-! ### The records (45 R282, R284, R291, R292) -/

/-- What one judgement appends: a `Smooth` once the timebase is valid, or a `Jam` with its notification when
forwarding, `first` exactly when the timebase was not valid. -/
def CorrectionAppended (s : State) (new : List Record) : Prop :=
  (∃ i m, new = s.records ++ [Record.corr .smooth i m] ∧ s.tb.tbvalid = true) ∨
  (∃ i m, s.fwd = false ∧ new = s.records ++ [Record.corr .jam i m]) ∨
  (∃ i m, s.fwd = true ∧ new = s.records ++ [Record.corr .jam i m, .notify (!s.tb.tbvalid)])

theorem jamTo_appends (c : Nat) {s : State} {first : Bool} (h : first = !s.tb.tbvalid) :
    CorrectionAppended s (jamTo s c first).records := by
  have hrecords : (jamTo s c first).records =
      s.records ++ [corrOf s .jam c] ++ if s.fwd then [Record.notify first] else [] := by rw [jamTo_eq]
  rw [hrecords, h, List.append_assoc]
  cases hfwd : s.fwd with
  | false => exact .inr (.inl ⟨_, _, hfwd, rfl⟩)
  | true => exact .inr (.inr ⟨_, _, hfwd, rfl⟩)

/-- `SE.EVAL` appends only with a correction, which keeps `LOCK` and makes the timebase valid. -/
theorem seEval_appends {c : Nat} {s : State} (h : (seEval c s).records ≠ s.records) :
    (seEval c s).se.lock = s.se.lock ∧ (seEval c s).tb.tbvalid = true ∧
    CorrectionAppended s (seEval c s).records := by
  rcases seEval_cases c s with ⟨hvalid, k⟩ | ⟨-, -, -, k⟩ | ⟨-, -, -, k⟩ | ⟨hvalid, -, -, -, k⟩ |
    ⟨hvalid, -, -, -, k⟩ <;> rw [k] at h ⊢
  · exact ⟨by rw [jamTo_eq], by rw [jamTo_eq], jamTo_appends c (by rw [hvalid]; rfl)⟩
  · exact absurd rfl h
  · exact absurd rfl h
  · exact ⟨by rw [smoothTo_eq], by rw [smoothTo_eq], .inl ⟨_, _, rfl, hvalid⟩⟩
  · exact ⟨by rw [jamTo_eq], by rw [jamTo_eq], jamTo_appends c (by rw [hvalid]; rfl)⟩

/-- A valid frame appends only when it is judged, in `Locked`. -/
theorem seFrame_appends {f : LtcFrame} {s : State} (h : (seFrame f s).records ≠ s.records) :
    (seFrame f s).se.lock = .locked ∧ (seFrame f s).tb.tbvalid = true ∧
    CorrectionAppended s (seFrame f s).records := by
  rcases lockOnFrame_cases s.rate s.se (frameCount f s) with hlock | hlock
  · rw [seFrame_of_locked hlock] at h ⊢
    exact seEval_appends (s := lockedOn f s) h
  · rw [seFrame_of_acquiring hlock] at h
    exact absurd rfl h

/-- Settles O60: of all a step can do only its valid frame appends, and that judges the drift once. -/
theorem correctionsOnlyWhileLocked : Obligations.CorrectionsOnlyWhileLocked := by
  unfold Obligations.CorrectionsOnlyWhileLocked
  intro s t hstep hchanged
  rcases step_engine hstep with ⟨hrecords, -⟩ | ⟨hon, u, htick, hjudged⟩
  · exact absurd hrecords hchanged
  cases hjudged with
  | silent h => exact absurd (h.records.trans htick.records) hchanged
  | error e v hbefore hafter =>
    refine absurd ?_ hchanged
    rw [hafter.records, seFerr_spec, hbefore.records, htick.records]
  | frame f v hbefore hafter =>
    have hrecords : v.records = s.records := hbefore.records.trans htick.records
    have hvalid : v.tb.tbvalid = s.tb.tbvalid := (congrArg Timebase.tbvalid hbefore.tb).trans htick.tbvalid
    have hfwd : v.fwd = s.fwd := by rw [State.fwd, State.fwd, hbefore.creg, htick.creg]
    obtain ⟨hlock, htb, happended⟩ := seFrame_appends (f := f) (s := v) (by rwa [← hafter.records, hrecords])
    rw [CorrectionAppended, hrecords, hvalid, hfwd] at happended
    rw [hafter.se, hafter.tb, hafter.records]
    exact ⟨hon, hlock, htb, happended⟩

end Sys2Proof.Proofs

namespace Sys2Proof.Proofs

open Sys2Proof.Machine

/-! Host control (spec/46_host_control.md): the register space, the commands, and the start and stop of the paths. -/

/-! ### The register space (46 R320, R321) -/

theorem exec_regRd (a : Offset) (s : State) :
    exec (.regRd a) s = .next { s with ret := some (.reg (readOffset s a)) } := rfl

theorem exec_regWr (a : Offset) (d : Reg32) (s : State) : exec (.regWr a d) s = .next (writeOffset a d s) := rfl

/-- Registers stand at the multiples of 4 up to 0x064 (10 R46). -/
theorem offsetOfReg_mapped (r : Reg) : (offsetOfReg r).toNat % 4 = 0 ∧ (offsetOfReg r).toNat ≤ 0x64 := by
  have h := regOfOffset_isSome (offsetOfReg r)
  simpa using h.symm

/-- And at all of them. -/
theorem exists_offsetOfReg {a : Offset} (haligned : a.toNat % 4 = 0) (hle : a.toNat ≤ 0x64) :
    ∃ r, a = offsetOfReg r := by
  have hsome : (regOfOffset a).isSome = true := by simp [regOfOffset_isSome, haligned, hle]
  obtain ⟨r, hr⟩ := Option.isSome_iff_exists.mp hsome
  exact ⟨r, offset_of_regOfOffset hr⟩

theorem ne_offsetOfReg {a : Offset} (h : 0x64 < a.toNat ∨ a.toNat % 4 ≠ 0) (r : Reg) : a ≠ offsetOfReg r := by
  rintro rfl
  obtain ⟨haligned, hle⟩ := offsetOfReg_mapped r
  omega

theorem readOffset_at (s : State) {a : Offset} (r : Reg) (h : a = offsetOfReg r) : readOffset s a = readReg s r := by
  rw [h, readOffset, regOfOffset_offsetOfReg]

theorem readOffset_unmapped (s : State) {a : Offset} (h : ∀ r, a ≠ offsetOfReg r) : readOffset s a = 0#32 := by
  unfold readOffset
  cases hr : regOfOffset a with
  | none => rfl
  | some r => exact absurd (offset_of_regOfOffset hr) (h r)

/-- An offset reads alike in two states when the register there does, if there is one. -/
theorem readOffset_congr {s t : State} {a : Offset} (h : ∀ r, a = offsetOfReg r → readReg t r = readReg s r) :
    readOffset t a = readOffset s a := by
  by_cases hmapped : ∃ r, a = offsetOfReg r
  · obtain ⟨r, hr⟩ := hmapped
    rw [readOffset_at t r hr, readOffset_at s r hr, h r hr]
  · have hnone : ∀ r, a ≠ offsetOfReg r := not_exists.mp hmapped
    rw [readOffset_unmapped t hnone, readOffset_unmapped s hnone]

/-- `CNT` is shown in full: `TBCNT` is the wider (10 R53). -/
theorem readReg_tbcnt_toNat (s : State) : (readReg s .tbcnt).toNat = s.tb.cnt.toNat := by
  show (s.tb.cnt.setWidth 32).toNat = s.tb.cnt.toNat
  rw [BitVec.toNat_setWidth, Nat.mod_eq_of_lt (by omega)]

/-- Settles O9: the value returned is `readOffset`, given by `readOffset_at` for each register and by
`readOffset_unmapped` elsewhere. -/
theorem registerReadReturnsTheRegister : Obligations.RegisterReadReturnsTheRegister := by
  unfold Obligations.RegisterReadReturnsTheRegister
  intro s a
  have htbcnt (h : a = 0x050#12) : (readOffset s a).toNat = s.tb.cnt.toNat := by
    rw [readOffset_at s .tbcnt h, readReg_tbcnt_toNat]
  exact ⟨readOffset s a, exec_regRd a s, readOffset_at s .ctrl, readOffset_at s .status, readOffset_at s .cfg,
    readOffset_at s .srate, readOffset_at s .smallthr, readOffset_at s .largethr, readOffset_at s .failthr,
    readOffset_at s .exthr, readOffset_at s .emittol, readOffset_at s .ubits, readOffset_at s .fldTime,
    readOffset_at s .fldFlags, readOffset_at s .fb0, readOffset_at s .fb1, readOffset_at s .fb2,
    readOffset_at s .cmd, readOffset_at s .result, readOffset_at s .posidx, readOffset_at s .posms,
    readOffset_at s .cntop, htbcnt, readOffset_at s .okcnt, readOffset_at s .ferrcnt, readOffset_at s .rxtime,
    readOffset_at s .rxflags, readOffset_at s .gapcnt, fun h => readOffset_unmapped s (ne_offsetOfReg h)⟩

/-! ### Register writes (46 R321) -/

/-- A write at a register without a write rule of its own: the lock, then the store. -/
theorem writeOffset_offsetOfReg {r : Reg} (hctrl : r ≠ .ctrl) (hcmd : r ≠ .cmd) (d : Reg32) (s : State) :
    writeOffset (offsetOfReg r) d s = if regLocked r && s.running then s else storeReg s r d := by
  rcases writeOffset_cases (offsetOfReg r) d s with ⟨h, -⟩ | ⟨h, -⟩ | ⟨h, -⟩ | ⟨q, h, -, -, hwrite⟩ <;>
    rw [regOfOffset_offsetOfReg] at h
  · cases h
  · exact absurd (Option.some.inj h) hctrl
  · exact absurd (Option.some.inj h) hcmd
  · rwa [← Option.some.inj h] at hwrite

/-- The read-only registers: no bit of them is written, and none has a write rule (10 R46). -/
theorem readOnly_of_offset (r : Reg)
    (h : offsetOfReg r = 0x004#12 ∨ offsetOfReg r = 0x040#12 ∨
      (0x50 ≤ (offsetOfReg r).toNat ∧ (offsetOfReg r).toNat ≤ 0x64)) :
    r ≠ .ctrl ∧ r ≠ .cmd ∧ regMask r = 0#32 := by
  revert h
  cases r <;> decide

theorem storeReg_readOnly {r : Reg} (h : regMask r = 0#32) (d : Reg32) (s : State) : storeReg s r d = s := by
  cases r with
  | status | cmd | result | tbcnt | okcnt | ferrcnt | rxtime | rxflags | gapcnt => rfl
  | _ => exact absurd h (by decide)

/-- A write changes nothing where it finds no register, or one it may not write: locked or read-only. -/
theorem writeOffset_eq_self {a : Offset} {s : State}
    (h : ∀ r, a = offsetOfReg r →
      r ≠ .ctrl ∧ r ≠ .cmd ∧ ((regLocked r && s.running) = true ∨ regMask r = 0#32)) (d : Reg32) :
    writeOffset a d s = s := by
  rcases writeOffset_cases a d s with ⟨-, hwrite⟩ | ⟨hr, -⟩ | ⟨hr, -⟩ | ⟨r, hr, -, -, hwrite⟩
  · exact hwrite
  · obtain ⟨hctrl, -, -⟩ := h .ctrl (offset_of_regOfOffset hr)
    exact absurd rfl hctrl
  · obtain ⟨-, hcmd, -⟩ := h .cmd (offset_of_regOfOffset hr)
    exact absurd rfl hcmd
  · obtain ⟨-, -, hlocked | hmask⟩ := h r (offset_of_regOfOffset hr)
    · rw [hwrite, if_pos hlocked]
    · rw [hwrite, storeReg_readOnly hmask, ite_self]

/-- The configuration registers are those from `CFG` to `UBITS` (10 R47). -/
theorem regLocked_iff_offset (r : Reg) :
    regLocked r = true ↔ 0x08 ≤ (offsetOfReg r).toNat ∧ (offsetOfReg r).toNat ≤ 0x24 := by
  cases r <;> decide

/-- A register that is stored and has no write rule: a configuration or an operand register. -/
def PlainReg (r : Reg) : Prop := r ≠ .ctrl ∧ r ≠ .cmd ∧ regMask r ≠ 0#32

theorem plainReg_of_offset (r : Reg)
    (h : (0x08 ≤ (offsetOfReg r).toNat ∧ (offsetOfReg r).toNat ≤ 0x24) ∨
      (0x28 ≤ (offsetOfReg r).toNat ∧ (offsetOfReg r).toNat ≤ 0x38) ∨
      (0x44 ≤ (offsetOfReg r).toNat ∧ (offsetOfReg r).toNat ≤ 0x4C)) : PlainReg r := by
  revert h
  unfold PlainReg
  cases r <;> decide

/-- The reserved bits of the plain registers, by offset (10 R21, R31, R38). -/
theorem regMask_of_plain {r : Reg} (h : PlainReg r) :
    regMask r = if offsetOfReg r = 0x008#12 then 0x1F#32
      else if offsetOfReg r = 0x024#12 ∨ offsetOfReg r = 0x038#12 then 0xFFFF#32
      else if offsetOfReg r = 0x02C#12 then 0x3FFFF#32 else 0xFFFFFFFF#32 := by
  revert h
  unfold PlainReg
  cases r <;> decide

/-- A store is seen at its own offset alone. -/
theorem readOffset_storeReg {r : Reg} (h : PlainReg r) (d : Reg32) (s : State) :
    readOffset (storeReg s r d) (offsetOfReg r) = d &&& regMask r ∧
      ∀ b : Offset, b ≠ offsetOfReg r → readOffset (storeReg s r d) b = readOffset s b := by
  obtain ⟨hctrl, -, hmask⟩ := h
  constructor
  · rw [readOffset_at _ r rfl, readReg_storeReg_same s r d hmask hctrl]
  · intro b hb
    refine readOffset_congr fun q hq => readReg_storeReg_other s r q d ?_
    rintro rfl
    exact hb hq

/-- An unlocked write at a plain register. -/
theorem exec_regWr_plain {r : Reg} (h : PlainReg r) (d : Reg32) {s : State}
    (hfree : regLocked r = true → s.running = false) :
    ∃ g o, exec (.regWr (offsetOfReg r) d) s = .next { s with creg := g, ops := o } ∧
      readOffset { s with creg := g, ops := o } (offsetOfReg r) = d &&& regMask r ∧
      ∀ b : Offset, b ≠ offsetOfReg r → readOffset { s with creg := g, ops := o } b = readOffset s b := by
  obtain ⟨hctrl, hcmd, hmask⟩ := h
  have hunlocked : (regLocked r && s.running) = false := by
    cases hl : regLocked r with
    | true => exact hfree hl
    | false => rfl
  obtain ⟨g, o, hstore⟩ := storeReg_eq s r d
  refine ⟨g, o, ?_, ?_⟩
  · rw [exec_regWr, writeOffset_offsetOfReg hctrl hcmd, hunlocked, ← hstore]
    rfl
  · rw [← hstore]
    exact readOffset_storeReg ⟨hctrl, hcmd, hmask⟩ d s

theorem running_iff (s : State) : s.running = true ↔ s.run.runEmit = true ∨ s.run.runRecv = true :=
  Bool.or_eq_true_iff

theorem exec_regWr_unmapped {a : Offset} (h : 0x64 < a.toNat ∨ a.toNat % 4 ≠ 0) (d : Reg32) (s : State) :
    exec (.regWr a d) s = .next s :=
  congrArg Host.Outcome.next (writeOffset_eq_self (fun r hr => absurd hr (ne_offsetOfReg h r)) d)

theorem exec_regWr_readOnly {a : Offset} (h : a = 0x004#12 ∨ a = 0x040#12 ∨ (0x50 ≤ a.toNat ∧ a.toNat ≤ 0x64))
    (d : Reg32) (s : State) : exec (.regWr a d) s = .next s := by
  refine congrArg Host.Outcome.next (writeOffset_eq_self (fun r hr => ?_) d)
  subst hr
  obtain ⟨hctrl, hcmd, hmask⟩ := readOnly_of_offset r h
  exact ⟨hctrl, hcmd, .inr hmask⟩

theorem exec_regWr_locked {a : Offset} {s : State} (hlo : 0x08 ≤ a.toNat) (hhi : a.toNat ≤ 0x24)
    (hrun : s.running = true) (d : Reg32) : exec (.regWr a d) s = .next s := by
  refine congrArg Host.Outcome.next (writeOffset_eq_self (fun r hr => ?_) d)
  subst hr
  obtain ⟨hctrl, hcmd, -⟩ := plainReg_of_offset r (.inl ⟨hlo, hhi⟩)
  have hlocked : regLocked r = true := (regLocked_iff_offset r).mpr ⟨hlo, hhi⟩
  exact ⟨hctrl, hcmd, .inl (by rw [hlocked, hrun]; rfl)⟩

/-- Settles O11, in the order of 46 R321. -/
theorem registerWriteFollowsItsOrder : Obligations.RegisterWriteFollowsItsOrder := by
  unfold Obligations.RegisterWriteFollowsItsOrder
  intro s a d
  refine ⟨fun h => exec_regWr_unmapped h d s, fun h => exec_regWr_readOnly h d s, fun h => ?ctrl, fun h => ?cmd,
    fun ⟨hlo, hhi, hrun⟩ => exec_regWr_locked hlo hhi ((running_iff s).mpr hrun) d, fun haligned h => ?plain⟩
  case ctrl => rw [h]; rfl
  case cmd => rw [h]; rfl
  case plain =>
    obtain ⟨r, rfl⟩ := exists_offsetOfReg haligned (by omega)
    have hplain : PlainReg r := plainReg_of_offset r (by omega)
    rw [← regMask_of_plain hplain]
    refine exec_regWr_plain hplain d fun hlocked => ?_
    obtain ⟨hlo, hhi⟩ := (regLocked_iff_offset r).mp hlocked
    obtain ⟨-, -, hemit, hrecv⟩ | h | h := h
    · rw [State.running, hemit, hrecv]
      rfl
    all_goals omega

/-! ### `NOP` and `CLRERR` (46 R323, R324) -/

theorem readOffset_result_zero (s : State) (a : Offset) :
    readOffset { s with result := 0#32 } a = if a = 0x040#12 then 0#32 else readOffset s a := by
  split
  · exact readOffset_at _ .result ‹_›
  · refine readOffset_congr fun r hr => ?_
    cases r with
    | result => exact absurd hr ‹_›
    | _ => rfl

/-- The sticky fields are bits 8, 9, 12 and 13 of `STATUS` (10 R25). -/
theorem status_clearErrors (s : State) : (clearErrors s).status = s.status &&& 0xFFFFCCFF#32 := by
  apply BitVec.eq_of_getLsbD_eq
  intro i hi
  rw [BitVec.getLsbD_and, status_getLsbD _ i hi, status_getLsbD s i hi]
  interval_cases i <;> simp [clearErrors_eq, State.drain, State.enOut]

theorem readOffset_clearErrors (s : State) (a : Offset) :
    readOffset (clearErrors s) a =
      if a = 0x004#12 then readOffset s a &&& 0xFFFFCCFF#32 else readOffset s a := by
  split
  · rw [readOffset_at _ .status ‹_›, readOffset_at s .status ‹_›]
    exact status_clearErrors s
  · refine readOffset_congr fun r hr => ?_
    cases r with
    | status => exact absurd hr ‹_›
    | _ => rfl

/-- Settles O13: `CLRERR` is the clearing of the errors after that of `RESULT`, each seen at one offset. -/
theorem nopAndClrerrClearOnlyTheirFields : Obligations.NopAndClrerrClearOnlyTheirFields := by
  unfold Obligations.NopAndClrerrClearOnlyTheirFields
  intro s
  refine ⟨⟨cmdNop s, rfl, rfl, readOffset_result_zero s⟩, ⟨cmdClrerr s, rfl, rfl, fun a => ?_⟩⟩
  have hclear : readOffset (cmdClrerr s) a = _ := readOffset_clearErrors { s with result := 0#32 } a
  rw [hclear, readOffset_result_zero]
  by_cases h : a = 0x040#12
  · rw [if_pos h, if_pos h, if_neg (by rw [h]; decide)]
  · rw [if_neg h, if_neg h]

/-- Settles O15: `CLRERR` writes the errors too, and every other command at most operands and `RESULT`. -/
theorem commandsNeverDisturbAPath : Obligations.CommandsNeverDisturbAPath := by
  unfold Obligations.CommandsNeverDisturbAPath
  intro op s hA
  have hA' : op.toNat ≠ 0x0A := fun h => hA (BitVec.eq_of_toNat_eq h)
  by_cases h9 : op.toNat = 0x09
  · refine ⟨s.ops, 0#32, ⟨false, false, 0#2⟩, ?_, fun h => absurd (BitVec.eq_of_toNat_eq h9) h⟩
    rw [exec_regWrCmd, runCommand_clrerr op s h9, cmdClrerr_eq]
    rfl
  · obtain ⟨o, r, heq⟩ := runCommand_eq op s h9 hA'
    refine ⟨o, r, s.err, ?_, fun _ => rfl⟩
    rw [exec_regWrCmd, heq]

/-! ### Start and stop (46 R332 to R335) -/

/-- Settles O32: each operation is its update of the run flag and of the path's state. -/
theorem startAndStopInitialiseTheirPath : Obligations.StartAndStopInitialiseTheirPath := by
  unfold Obligations.StartAndStopInitialiseTheirPath
  intro s
  exact ⟨congrArg Host.Outcome.next (startEmit_eq s), congrArg Host.Outcome.next (emitStop_eq s),
    congrArg Host.Outcome.next (startRecv_eq s), congrArg Host.Outcome.next (stopRecv_eq s)⟩

/-- From `s` to `t` the streaming state goes with the run flags: a path that starts or stops is at its reset
values, one that does neither keeps its state, and the start of the receive path clears the statistics. -/
structure StreamsFollowRun (s t : State) : Prop where
  emitKept : t.run.runEmit = s.run.runEmit → t.mod = s.mod
  emitReset : t.run.runEmit ≠ s.run.runEmit → t.mod = .reset
  recvKept : t.run.runRecv = s.run.runRecv →
    t.se = s.se ∧ t.dem = s.dem ∧ t.fbd = s.fbd ∧ t.tb.rxtacc = s.tb.rxtacc
  recvReset : t.run.runRecv ≠ s.run.runRecv → t.se = .reset ∧ t.dem = .reset ∧ t.fbd = .reset ∧ t.tb.rxtacc = 0
  tbKept : t.run.runEmit = s.run.runEmit → t.run.runRecv = s.run.runRecv → t.tb = s.tb
  tbReset : t.run.runEmit ≠ s.run.runEmit ∨ t.run.runRecv ≠ s.run.runRecv → t.tb.cnt = 0 ∧ t.tb.tbvalid = false
  statCleared : t.run.runRecv = true ∧ s.run.runRecv = false → t.stat = ⟨0, 0, 0, 0⟩
  statKept : ¬(t.run.runRecv = true ∧ s.run.runRecv = false) → t.stat = s.stat

theorem streamsFollowRun_storeCtrl (s : State) (eo ei : Bool) (e : Errors) :
    StreamsFollowRun s (storeCtrl s eo ei e) where
  emitKept _ := rfl
  emitReset h := absurd rfl h
  recvKept _ := ⟨rfl, rfl, rfl, rfl⟩
  recvReset h := absurd rfl h
  tbKept _ _ := rfl
  tbReset h := h.elim (absurd rfl) (absurd rfl)
  statCleared h := absurd (h.2.symm.trans h.1) Bool.false_ne_true
  statKept _ := rfl

theorem StreamsFollowRun.startEmit {s t : State} (h : StreamsFollowRun s t) (hoff : s.run.runEmit = false) :
    StreamsFollowRun s (startEmit t) where
  emitKept hsame := absurd (hoff.symm.trans hsame.symm) Bool.false_ne_true
  emitReset _ := rfl
  recvKept := h.recvKept
  recvReset := h.recvReset
  tbKept hsame := absurd (hoff.symm.trans hsame.symm) Bool.false_ne_true
  tbReset _ := ⟨rfl, rfl⟩
  statCleared := h.statCleared
  statKept := h.statKept

theorem StreamsFollowRun.emitStop {s t : State} (h : StreamsFollowRun s t) (hon : s.run.runEmit = true) :
    StreamsFollowRun s (emitStop t) where
  emitKept hsame := absurd (hsame.trans hon) Bool.false_ne_true
  emitReset _ := rfl
  recvKept := h.recvKept
  recvReset := h.recvReset
  tbKept hsame := absurd (hsame.trans hon) Bool.false_ne_true
  tbReset _ := ⟨rfl, rfl⟩
  statCleared := h.statCleared
  statKept := h.statKept

theorem StreamsFollowRun.startRecv {s t : State} (h : StreamsFollowRun s t) (hoff : s.run.runRecv = false) :
    StreamsFollowRun s (startRecv t) where
  emitKept := h.emitKept
  emitReset := h.emitReset
  recvKept hsame := absurd (hoff.symm.trans hsame.symm) Bool.false_ne_true
  recvReset _ := ⟨rfl, rfl, rfl, rfl⟩
  tbKept _ hsame := absurd (hoff.symm.trans hsame.symm) Bool.false_ne_true
  tbReset _ := ⟨rfl, rfl⟩
  statCleared _ := rfl
  statKept hkept := absurd ⟨rfl, hoff⟩ hkept

theorem StreamsFollowRun.stopRecv {s t : State} (h : StreamsFollowRun s t) (hon : s.run.runRecv = true) :
    StreamsFollowRun s (stopRecv t) where
  emitKept := h.emitKept
  emitReset := h.emitReset
  recvKept hsame := absurd (hsame.trans hon) Bool.false_ne_true
  recvReset _ := ⟨rfl, rfl, rfl, rfl⟩
  tbKept _ hsame := absurd (hsame.trans hon) Bool.false_ne_true
  tbReset _ := ⟨rfl, rfl⟩
  statCleared hstart := absurd hstart.1 Bool.false_ne_true
  statKept _ := h.statKept fun hstart => Bool.false_ne_true (hstart.2.symm.trans hon)

/-! ### Device error (46 R336) -/

theorem devErr_streams (s : State) : StreamsFollowRun s (devErr s) := by
  have hstored := streamsFollowRun_storeCtrl s false false { s.err with deverr := true }
  unfold devErr
  dsimp only
  split_ifs with hrecv hemit hemit
  · exact (hstored.stopRecv hrecv).emitStop hemit
  · exact hstored.stopRecv hrecv
  · exact hstored.emitStop hemit
  · exact hstored

/-- Settles O35: both run flags end off, and the streaming state goes with them. -/
theorem deviceErrorStopsBothPaths : Obligations.DeviceErrorStopsBothPaths := by
  unfold Obligations.DeviceErrorStopsBothPaths
  intro s
  obtain ⟨hcreg, hops, hresult, hpos, hstat, hevents, hret, hrecords, herr, hrun⟩ := devErr_frame s
  obtain ⟨hemitKept, hemitReset, hrecvKept, hrecvReset, htbKept, htbReset, -, -⟩ := devErr_streams s
  simp only [hrun] at hemitKept hemitReset hrecvKept hrecvReset htbKept htbReset
  have hrecvOn (h : s.run.runRecv = true) := hrecvReset fun hoff => Bool.false_ne_true (hoff.trans h)
  have hrecvOff (h : ¬s.run.runRecv = true) := hrecvKept (Bool.eq_false_of_not_eq_true h).symm
  refine ⟨devErr s, rfl, hrun, herr, ?mod, ?recv, fun he hr => htbKept he.symm hr.symm, fun h => htbReset ?ran,
    ?rxtacc, hstat, hcreg, hops, hresult, hpos, hevents, hret, hrecords⟩
  case mod =>
    split
    · exact hemitReset fun h => Bool.false_ne_true (h.trans ‹_›)
    · exact hemitKept (Bool.eq_false_of_not_eq_true ‹_›).symm
  case recv =>
    split
    · obtain ⟨hse, hdem, hfbd, -⟩ := hrecvOn ‹_›
      exact ⟨hse, hdem, hfbd⟩
    · obtain ⟨hse, hdem, hfbd, -⟩ := hrecvOff ‹_›
      exact ⟨hse, hdem, hfbd⟩
  case ran =>
    exact h.imp (fun hemit hoff => Bool.false_ne_true (hoff.trans hemit))
      (fun hrecv hoff => Bool.false_ne_true (hoff.trans hrecv))
  case rxtacc =>
    split
    · obtain ⟨-, -, -, hacc⟩ := hrecvOn ‹_›
      exact hacc
    · obtain ⟨-, -, -, hacc⟩ := hrecvOff ‹_›
      exact hacc

/-! ### `REG.WR CTRL` (46 R330) -/

/-- What is granted: one bit alone, to the path that runs or, both stopped, to a path that may start. -/
theorem ctrlGrant_bits (eo ei : Bool) {s : State} (hone : s.run.runEmit = false ∨ s.run.runRecv = false) :
    (ctrlGrant eo ei s).enOut = (eo && !ei && (s.run.runEmit || (!s.run.runRecv && s.cfgOk))) ∧
    (ctrlGrant eo ei s).enIn = (ei && !eo && (s.run.runRecv || (!s.run.runEmit && s.cfgOk))) := by
  unfold ctrlGrant
  dsimp only
  generalize s.run.runEmit = re at hone ⊢
  generalize s.run.runRecv = rr at hone ⊢
  generalize s.cfgOk = ok
  revert eo ei re rr ok
  decide

/-- A `ConfigurationError` is found exactly when a bit asked for is not granted. -/
theorem ctrlGrant_refused (eo ei : Bool) (s : State) :
    (ctrlGrant eo ei s).refused = ((eo != (ctrlGrant eo ei s).enOut) || (ei != (ctrlGrant eo ei s).enIn)) := by
  unfold ctrlGrant
  dsimp only
  generalize s.run.runEmit = re
  generalize s.run.runRecv = rr
  generalize s.cfgOk = ok
  revert eo ei re rr ok
  decide

theorem ctrlWord_reserved (eo ei : Bool) : (ctrlWord eo ei).extractLsb' 2 30 = 0#30 := by
  revert eo ei; decide

/-- The run flags after `REG.WR CTRL`, by the enable bits it stores: a frame in progress drains. -/
structure PathsFollowCtrl (s t : State) : Prop where
  runEmit : t.run.runEmit = (t.enOut || (s.run.runEmit && s.mod.mact))
  runRecv : t.run.runRecv = t.enIn
  streams : StreamsFollowRun s t

/-- With the emit path off no frame drains: it runs on if it is enabled. -/
theorem PathsFollowCtrl.of_emit_off {s t : State} (hoff : s.run.runEmit = false) (hemit : t.run.runEmit = t.enOut)
    (hrecv : t.run.runRecv = t.enIn) (hstreams : StreamsFollowRun s t) : PathsFollowCtrl s t :=
  ⟨by rw [hemit, hoff, Bool.false_and, Bool.or_false], hrecv, hstreams⟩

/-- Both enable bits off: the receive path stops at once, the emit path unless a frame is in progress. -/
theorem stopPaths_paths {s : State} (hone : s.run.runEmit = false ∨ s.run.runRecv = false) (e : Errors) :
    PathsFollowCtrl s (stopPaths (!s.mod.mact) (storeCtrl s false false e)) := by
  have hstored := streamsFollowRun_storeCtrl s false false e
  have hout : (storeCtrl s false false e).enOut = false := ctrlWord_enOut _ _
  have hin : (storeCtrl s false false e).enIn = false := ctrlWord_enIn _ _
  unfold stopPaths
  split_ifs with hrecv hemit
  · have hoff : s.run.runEmit = false := hone.resolve_right fun h => Bool.false_ne_true (h.symm.trans hrecv)
    exact .of_emit_off hoff (hoff.trans hout.symm) hin.symm (hstored.stopRecv hrecv)
  · obtain ⟨hemit, hidle⟩ := hemit
    have hdrained : false = ((storeCtrl s false false e).enOut || (s.run.runEmit && s.mod.mact)) := by
      rw [hout, (Bool.not_eq_true' s.mod.mact).mp hidle, Bool.and_false, Bool.or_false]
    exact ⟨hdrained, (Bool.eq_false_of_not_eq_true hrecv).trans hin.symm, hstored.emitStop hemit⟩
  · have hframe : s.run.runEmit = true → s.mod.mact = true := by simpa [storeCtrl] using hemit
    have hdrains : s.run.runEmit = ((storeCtrl s false false e).enOut || (s.run.runEmit && s.mod.mact)) := by
      rw [hout, Bool.false_or]
      cases hrun : s.run.runEmit with
      | true => rw [hframe hrun]; rfl
      | false => rfl
    exact ⟨hdrains, (Bool.eq_false_of_not_eq_true hrecv).trans hin.symm, hstored⟩

theorem ctrlWrite_paths (eo ei : Bool) {s : State} (hone : s.run.runEmit = false ∨ s.run.runRecv = false) :
    PathsFollowCtrl s (ctrlWrite eo ei s) := by
  obtain ⟨e, h | ⟨hrecv, -, h⟩ | ⟨hemit, -, h⟩⟩ := ctrlWrite_cases eo ei hone <;> rw [h]
  · exact stopPaths_paths hone e
  · have hstored := streamsFollowRun_storeCtrl s true false e
    have hout : (storeCtrl s true false e).enOut = true := ctrlWord_enOut _ _
    have hin : (storeCtrl s true false e).enIn = false := ctrlWord_enIn _ _
    split_ifs with hemit
    · exact ⟨by rw [hout]; exact hemit, hrecv.trans hin.symm, hstored⟩
    · have hoff := Bool.eq_false_of_not_eq_true hemit
      exact .of_emit_off hoff hout.symm (hrecv.trans hin.symm) (hstored.startEmit hoff)
  · have hstored := streamsFollowRun_storeCtrl s false true e
    have hout : (storeCtrl s false true e).enOut = false := ctrlWord_enOut _ _
    have hin : (storeCtrl s false true e).enIn = true := ctrlWord_enIn _ _
    split_ifs with hrecv
    · exact .of_emit_off hemit (hemit.trans hout.symm) (hrecv.trans hin.symm) hstored
    · have hoff := Bool.eq_false_of_not_eq_true hrecv
      exact .of_emit_off hemit (hemit.trans hout.symm) hin.symm (hstored.startRecv hoff)

theorem one_path_of_legal {s : State} (h : RunStateLegal s) : s.run.runEmit = false ∨ s.run.runRecv = false := by
  rcases h with ⟨he, -⟩ | ⟨-, hr, -⟩ | ⟨-, hr, -⟩ | ⟨he, -⟩
  · exact .inl he
  · exact .inr hr
  · exact .inr hr
  · exact .inl he

/-- Settles O33: the grant decides `CTRL` and `CFGERR`, `CTRL` the run flags, the run flags the streaming state. -/
theorem controlWriteGrantsAndRefuses : Obligations.ControlWriteGrantsAndRefuses := by
  unfold Obligations.ControlWriteGrantsAndRefuses
  intro s eo ei ok hlegal hok
  have hone := one_path_of_legal hlegal
  have hok : ok = s.cfgOk := hok
  obtain ⟨hcreg, hops, hresult, hpos, hevents, hret, hrecords, hctrl, herr⟩ := ctrlWrite_frame eo ei s
  obtain ⟨hemit, hrecv, hstreams⟩ := ctrlWrite_paths eo ei hone
  obtain ⟨hgrantOut, hgrantIn⟩ := ctrlGrant_bits eo ei hone
  have hout : (ctrlWrite eo ei s).enOut = (ctrlGrant eo ei s).enOut := by
    rw [State.enOut, hctrl, ctrlWord_enOut]
  have hin : (ctrlWrite eo ei s).enIn = (ctrlGrant eo ei s).enIn := by
    rw [State.enIn, hctrl, ctrlWord_enIn]
  refine ⟨ctrlWrite eo ei s, rfl, ?_, ?_, ?_, ?_, hemit, hrecv, ?_, fun h => hstreams.tbKept h.1 h.2,
    hstreams.tbReset, ?_, ?_, hcreg, hops, hresult, hpos, hevents, hret, hrecords⟩
  · rw [hout, hgrantOut, hok]
  · rw [hin, hgrantIn, hok]
  · rw [hctrl, ctrlWord_reserved]
  · rw [herr, ctrlGrant_refused, hout, hin, Bool.or_assoc]
  · split
    · exact hstreams.emitKept ‹_›
    · exact hstreams.emitReset ‹_›
  · split
    · exact hstreams.recvKept ‹_›
    · exact hstreams.recvReset ‹_›
  · split
    · exact hstreams.statCleared ‹_›
    · exact hstreams.statKept ‹_›

/-! ### A draining frame (46 R334) -/

theorem modCell_putRun (s : State) (r : RunState) : modCell (s.putRun r) = (modCell s).putRun r := rfl

theorem midToggle_putRun (s : State) (r : RunState) : midToggle (s.putRun r) = (midToggle s).putRun r := by
  rw [midToggle_eq, midToggle_eq]
  rfl

theorem advanceSample_putRun (s : State) (r : RunState) :
    advanceSample (s.putRun r) = (advanceSample s).putRun r := by
  unfold advanceSample
  dsimp only
  simp only [apply_ite (State.putRun · r)]
  rfl

/-- A sample of a frame in progress reads neither `CTRL` nor the run flags. -/
theorem emitSample_putRun (s : State) (r : RunState) : emitSample (s.putRun r) = (emitSample s).putRun r := by
  have hcell : (if (s.putRun r).mod.mpos = 0 then modCell (s.putRun r) else s.putRun r) =
      (if s.mod.mpos = 0 then modCell s else s).putRun r := by
    rw [apply_ite (State.putRun · r)]
    rfl
  unfold emitSample
  dsimp only
  rw [hcell, midToggle_putRun, advanceSample_putRun]
  rfl

/-- Settles O34: while a frame is in progress `SMP.OUT` is `emitSample`, which a new `CTRL` commutes with. -/
theorem drainSendsTheFrameUnchanged : Obligations.DrainSendsTheFrameUnchanged := by
  unfold Obligations.DrainSendsTheFrameUnchanged
  intro s c hrun hact
  have hdrain : emitSample (s.putRun { s.run with ctrl := c }) = (emitSample s).putRun { s.run with ctrl := c } :=
    emitSample_putRun s _
  obtain ⟨m, hm⟩ := emitSample_eq s
  refine ⟨m, sampleOf m.mlvl, ?_, ?_⟩
  · rw [exec_smpOut, smpOut_of_frame hrun hact, hm]
  · rw [hm] at hdrain
    have hout : smpOut (s.putRun { s.run with ctrl := c }) = _ := smpOut_of_frame hrun hact
    exact congrArg Host.Outcome.next (hout.trans hdrain)

end Sys2Proof.Proofs
